-- ==== Sys2Proof/Word.lean ====
section
/-! DEFINITION. The byte and the fixed shapes made of bytes and samples (spec/00_scope.md R6, R7, R12). -/

namespace Sys2Proof

/-- One device register, or one byte of a byte string (R6). -/
abbrev Byte := BitVec 8

/-- `Byte[2]`: a register pair, low byte first (R7, R41). -/
abbrev Pair := Vector Byte 2

/-- `Byte[8]`: the per-pixel flag table (R89). -/
abbrev FlagBytes := Vector Byte 8

/-- `Grid α`: N_ROWS = 8 rows of N_COLS = 8 columns; `g[r][c]` is row r, column c (R5, R12). -/
abbrev Grid (α : Type) := Vector (Vector α 8) 8

/-- The addresses from which an `n`-byte transfer stays inside the 256 registers: `addr + n ≤ 256` (R40, R42, R43). -/
abbrev RegBase (n : Nat) := Fin (257 - n)

end Sys2Proof
end

