-- ==== Sys2Proof/Config.lean ====
section
/-! DEFINITION. What is fixed at construction (the record Cfg: spec/00_scope.md R5, spec/10_state.md R26), what the
environment answers at a bus transfer (spec/20_memory.md R44 to R57), and the free values, which nothing constrains. -/

namespace Sys2Proof

/-- The register map `RM`: addresses, bit positions, encodings and reset patterns (R80 to R85, R90).
A register used by an n-byte transfer has an address at which n bytes fit (R42, R43). -/
structure RegMap where
  /-- power control -/
  pctl : RegBase 1
  /-- status reset used by RST_FLAGS -/
  rst : RegBase 1
  /-- mode (frame rate) -/
  fpsc : RegBase 1
  /-- interrupt control -/
  intc : RegBase 1
  /-- status -/
  stat : RegBase 1
  /-- status reset used by RST_INT and RST_OVF -/
  sclr : RegBase 1
  /-- moving-average control -/
  ave : RegBase 1
  /-- upper-limit pair -/
  inth : RegBase 2
  /-- lower-limit pair -/
  intl : RegBase 2
  /-- hysteresis pair -/
  ihys : RegBase 2
  /-- device-temperature pair -/
  tth : RegBase 2
  /-- first byte of the per-pixel flag table -/
  pxfBase : RegBase 8
  /-- low byte of pixel 0's pair -/
  pixBase : RegBase 128
  pctlAwake : Byte
  pctlSleep : Byte
  fpsBit : Fin 8
  /-- the value of the frame-rate bit that means LOW; true is 1 -/
  fpsLowVal : Bool
  maBit : Fin 8
  intenBit : Fin 8
  intmodBit : Fin 8
  intfBit : Fin 8
  ovfBit : Fin 8
  rstIntPat : RegBase 1 × Byte
  rstOvfPat : RegBase 1 × Byte
  rstAllPat : RegBase 1 × Byte
deriving DecidableEq, Repr

/-- `GATE_POLICY`: what an Awake-only command does while Asleep (R5, R141, R142). -/
inductive GatePolicy
  | issue
  | refuse
deriving DecidableEq, Repr

/-- `DEV_ADDR ∈ {DEV_ADDR_A, DEV_ADDR_B}`: which of the two documented 7-bit addresses (R5, R241). -/
inductive DevAddr
  | a
  | b
deriving DecidableEq, Repr

/-- `Cfg` less the widths and scales, which the source fixes (R5, R26). -/
structure Cfg where
  rm : RegMap
  devAddr : DevAddr
  policy : GatePolicy
deriving DecidableEq, Repr

/-- The BusPort's own error value: "on bus NACK, timeout, or arbitration loss" (R42, R211). -/
inductive BusError
  | nack
  | timeout
  | arbitrationLoss
deriving DecidableEq, Repr

/-- A register and a value it takes by the environment's doing. -/
abbrev RegValue := Fin 256 × Byte

/-- Everything the environment decides around ONE transfer (R44, R45, R48, R53, R54, R56, R57). -/
structure BusAnswer where
  /-- The frame events since the block's turn began or its last transfer: the class D registers they change, in order (R57). -/
  frames : List RegValue
  /-- `TransferError`, or none when the transfer succeeds (R45). -/
  error : Option BusError
  /-- What a sensor that is asleep, or in an unknown state, returns: byte k of a read (R56). -/
  drawn : List Byte
  /-- Which bytes of a failed write the sensor took: entry k for byte k, absent for not taken (R44). -/
  taken : List Bool
  /-- What a write of unknown effect does to the registers (R56; R54's last sentence). -/
  effect : List RegValue
deriving DecidableEq, Repr, Inhabited

/-- Who makes the next step: the environment, by a frame event of its own between two transfers, or the block (R57, R58). -/
inductive Turn
  /-- The environment: the class D registers the frame event changes, in order. -/
  | frame (changes : List RegValue)
  | block
deriving DecidableEq, Repr

/-- FREE VALUE: what a frame event changes for which State lists no turn (R57; log 21). -/
opaque Config.freeFrame : Nat → List RegValue

/-- FREE VALUE: the environment's answer at the k-th transfer for which State lists none (log 5). -/
opaque Config.freeAnswer : Nat → BusAnswer

/-- FREE VALUE: what register `a` holds before anything has written it, fixed once per run (R52, R242; log 6). -/
opaque Config.powerOnByte : Nat → Byte

/-- FREE VALUE: the two 7-bit device addresses, which the source does not give (R241; log 11). -/
opaque Config.deviceAddress : DevAddr → BitVec 7

end Sys2Proof
end

