-- ==== Sys2Proof/Syntax.lean ====
section
/-! DEFINITION. The operand and result types, the 38 commands, the command port's record, and the host's program
constructs (spec/30_encoding.md R70 to R79, R93; spec/41_mode_fsm.md R148). -/

namespace Sys2Proof

/-- The temperature profiles (R13, R86). -/
inductive Profile
  | pixel
  | device
  | hyst
deriving DecidableEq, Repr

/-- FrameRate: LOW is 1 Hz, HIGH is 10 Hz (R79, R82). -/
inductive FrameRate
  | low
  | high
deriving DecidableEq, Repr

/-- Mode (R20, R79). -/
inductive Mode
  | asleep
  | awake
deriving DecidableEq, Repr

/-- What a power-control byte decodes to (R79, R124). -/
inductive ModeRead
  | asleep
  | awake
  | unknown
deriving DecidableEq, Repr

/-- `TempIn`: a finite rational number of degrees, +∞, -∞ or NaN (R10, R79). `-0.0` is `finite 0`. -/
inductive TempIn
  | finite (t : Rat)
  | posInf
  | negInf
  | nan
deriving DecidableEq, Repr

/-- `ICfgIn`: the interrupt configuration a host writes (R79). -/
structure ICfgIn where
  enabled : Bool
  absolute : Bool
  upper : TempIn
  lower : TempIn
  hysteresis : TempIn
deriving DecidableEq, Repr

/-- `ICfg`: the interrupt configuration a host reads (R79). -/
structure ICfg where
  enabled : Bool
  absolute : Bool
  upper : Rat
  lower : Rat
  hysteresis : Rat
deriving DecidableEq, Repr

/-- The host commands, one constructor per row of spec/opcode_table.json, with their operands (R79). -/
inductive Instr
  | dectPix (b : Pair)
  | dectDev (b : Pair)
  | dectHys (b : Pair)
  | enctPix (t : TempIn)
  | enctDev (t : TempIn)
  | enctHys (t : TempIn)
  | decpf (b : FlagBytes)
  | deceFr (v : Byte)
  | deceMa (v : Byte)
  | deceDm (v : Byte)
  | deceIe (v : Byte)
  | deceIa (v : Byte)
  | parseFr (str : String)
  | enceFr (x : FrameRate) (old : Byte)
  | enceMa (x : Bool) (old : Byte)
  | enceDm (x : Mode)
  | enceIe (x : Bool) (old : Byte)
  | enceIa (x : Bool) (old : Byte)
  | wake
  | sleep
  | asleep
  | scopeEnter
  | scopeExit
  | image
  | devtemp
  | rdFr
  | wrFr (x : FrameRate)
  | rdMa
  | wrMa (x : Bool)
  | rdIcfg
  | wrIcfg (c : ICfgIn)
  | disInt
  | rdInt
  | rdPxint
  | rdOvf
  | rstInt
  | rstOvf
  | rstFlags
deriving DecidableEq, Repr

/-- The operand records of the command port, one constructor per shape of R79. -/
inductive OperandRecord
  | none
  | pair (b : Pair)
  | flagBytes (b : FlagBytes)
  | byte (v : Byte)
  | temp (t : TempIn)
  | rate (x : FrameRate)
  | rateOld (x : FrameRate) (old : Byte)
  | bool (x : Bool)
  | boolOld (x : Bool) (old : Byte)
  | mode (x : Mode)
  | str (str : String)
  | icfg (c : ICfgIn)
deriving DecidableEq, Repr

/-- The shapes of the operand records (R79). -/
inductive Shape
  | none
  | pair
  | flagBytes
  | byte
  | temp
  | rate
  | rateOld
  | bool
  | boolOld
  | mode
  | str
  | icfg
deriving DecidableEq, Repr

/-- What the command port carries: a command code and an operand record (R70). -/
structure Command where
  op : Byte
  operands : OperandRecord
deriving DecidableEq, Repr

/-- A host program: commands, the pseudo-instruction `WR_FR "s"` and the structured scope, in order (R93, R148). -/
inductive HostProgram
  | done
  | command (c : Command) (rest : HostProgram)
  | wrFrString (str : String) (rest : HostProgram)
  | scope (body : HostProgram) (rest : HostProgram)
deriving DecidableEq, Repr

end Sys2Proof
end

