-- ==== Sys2Proof/WellFormed.lean ====
section
/-! DEFINITION. The checks a term passes before it means anything: the register map a block is constructed with
(spec/30_encoding.md R80 to R85, R90), a command on the port (R70, R79), a host program (spec/41_mode_fsm.md R148).
Every term of `Instr` is well formed: its types already fix each operand's shape and range. -/

namespace Sys2Proof

/-- The named registers as (first address, number of bytes) (R80). -/
def RegMap.spans (m : RegMap) : List (Nat × Nat) :=
  [(m.pctl.val, 1), (m.rst.val, 1), (m.fpsc.val, 1), (m.intc.val, 1), (m.stat.val, 1), (m.sclr.val, 1),
   (m.ave.val, 1), (m.inth.val, 2), (m.intl.val, 2), (m.ihys.val, 2), (m.tth.val, 2), (m.pxfBase.val, 8),
   (m.pixBase.val, 128)]

/-- Two spans share no address. -/
abbrev spansApart (x y : Nat × Nat) : Prop := x.1 + x.2 ≤ y.1 ∨ y.1 + y.2 ≤ x.1

/-- Every register belongs to one class: no two named registers overlap (R51; log 10). -/
abbrev RegMap.registersApart (m : RegMap) : Prop := m.spans.Pairwise spansApart

/-- `PCTL_AWAKE ≠ PCTL_SLEEP` (R81). -/
abbrev RegMap.powerCodesDiffer (m : RegMap) : Prop := m.pctlAwake ≠ m.pctlSleep

/-- `INTEN_BIT ≠ INTMOD_BIT` (R84). -/
abbrev RegMap.controlBitsDiffer (m : RegMap) : Prop := m.intenBit ≠ m.intmodBit

/-- `INTF_BIT ≠ OVF_BIT` (R85). -/
abbrev RegMap.statusBitsDiffer (m : RegMap) : Prop := m.intfBit ≠ m.ovfBit

/-- Each reset pattern is written to a status-reset register (R51 class X, R90; log 10). -/
abbrev RegMap.patternsOnResetRegisters (m : RegMap) : Prop :=
  (m.rstIntPat.1 = m.sclr ∨ m.rstIntPat.1 = m.rst) ∧ (m.rstOvfPat.1 = m.sclr ∨ m.rstOvfPat.1 = m.rst) ∧
    (m.rstAllPat.1 = m.sclr ∨ m.rstAllPat.1 = m.rst)

/-- The three reset patterns do three different things, so they are three different writes (R90; log 10). -/
abbrev RegMap.patternsDiffer (m : RegMap) : Prop :=
  m.rstIntPat ≠ m.rstOvfPat ∧ m.rstIntPat ≠ m.rstAllPat ∧ m.rstOvfPat ≠ m.rstAllPat

/-- What the spec asks of any binding of `RM`. -/
abbrev RegMap.WellFormed (m : RegMap) : Prop :=
  m.registersApart ∧ m.powerCodesDiffer ∧ m.controlBitsDiffer ∧ m.statusBitsDiffer ∧
    m.patternsOnResetRegisters ∧ m.patternsDiffer

/-- The shape of an operand record. -/
def OperandRecord.shape : OperandRecord → Shape
  | .none => .none
  | .pair _ => .pair
  | .flagBytes _ => .flagBytes
  | .byte _ => .byte
  | .temp _ => .temp
  | .rate _ => .rate
  | .rateOld _ _ => .rateOld
  | .bool _ => .bool
  | .boolOld _ _ => .boolOld
  | .mode _ => .mode
  | .str _ => .str
  | .icfg _ => .icfg

/-- The operand shape each assigned code fixes (R79); none for a reserved code (R78). -/
def operandShape (op : Byte) : Option Shape :=
  match op with
  | 0x00#8 | 0x01#8 | 0x02#8 => some .pair
  | 0x04#8 | 0x05#8 | 0x06#8 => some .temp
  | 0x08#8 => some .flagBytes
  | 0x10#8 | 0x11#8 | 0x12#8 | 0x13#8 | 0x14#8 => some .byte
  | 0x17#8 => some .str
  | 0x18#8 => some .rateOld
  | 0x19#8 | 0x1B#8 | 0x1C#8 => some .boolOld
  | 0x1A#8 => some .mode
  | 0x20#8 | 0x21#8 | 0x22#8 | 0x23#8 | 0x24#8 => some .none
  | 0x30#8 | 0x31#8 => some .none
  | 0x40#8 | 0x42#8 | 0x44#8 | 0x46#8 => some .none
  | 0x41#8 => some .rate
  | 0x43#8 => some .bool
  | 0x45#8 => some .icfg
  | 0x50#8 | 0x51#8 | 0x52#8 | 0x53#8 | 0x54#8 | 0x55#8 => some .none
  | _ => none

/-- A command the port can carry: its operand record has the shape its code fixes (R70, R79). A reserved code fixes no
shape, and is carried with any record (R78). -/
def Command.wellFormed (c : Command) : Bool :=
  match operandShape c.op with
  | some k => c.operands.shape == k
  | none => true

/-- A scope's body holds no SCOPE_ENTER, no SCOPE_EXIT and no other scope, and only well-formed commands (R148). -/
def HostProgram.bodyWellFormed : HostProgram → Bool
  | .done => true
  | .command c rest => c.wellFormed && c.op != 0x23#8 && c.op != 0x24#8 && rest.bodyWellFormed
  | .wrFrString _ rest => rest.bodyWellFormed
  | .scope _ _ => false

/-- The check a program passes before it runs: the scope construct is the only way it opens a scope, so it holds no
SCOPE_ENTER of its own, and every scope's body is well formed (R148; log 20). -/
def HostProgram.wellFormed : HostProgram → Bool
  | .done => true
  | .command c rest => c.wellFormed && c.op != 0x23#8 && rest.wellFormed
  | .wrFrString _ rest => rest.wellFormed
  | .scope body rest => body.bodyWellFormed && rest.wellFormed

end Sys2Proof
end

