-- ==== Sys2Proof/Decode.lean ====
section
/-! DEFINITION. Decoding a command (spec/30_encoding.md R71 to R79), total on every code and every operand record and
refusing by name, and the encoder beside it, from the same tables. The spec gives the code eight bits and the operand
record a shape; it gives the record no bits, so the record is carried as data (log 1). -/

namespace Sys2Proof

/-- Why a command is no instruction. -/
inductive DecodeError
  /-- A code that R72 to R77 assign to no command: ILLEGAL_COMMAND (R78, R214). -/
  | reservedCode (op : Byte)
  /-- An operand record whose shape is not the one its code fixes, which R70 says the port never carries. -/
  | operandRecord (op : Byte)
deriving DecidableEq, Repr

def Command.noOperands (c : Command) (i : Instr) : Except DecodeError Instr :=
  match c.operands with
  | .none => .ok i
  | _ => .error (.operandRecord c.op)

def Command.pair (c : Command) (k : Pair → Instr) : Except DecodeError Instr :=
  match c.operands with
  | .pair b => .ok (k b)
  | _ => .error (.operandRecord c.op)

def Command.flagBytes (c : Command) (k : FlagBytes → Instr) : Except DecodeError Instr :=
  match c.operands with
  | .flagBytes b => .ok (k b)
  | _ => .error (.operandRecord c.op)

def Command.byte (c : Command) (k : Byte → Instr) : Except DecodeError Instr :=
  match c.operands with
  | .byte v => .ok (k v)
  | _ => .error (.operandRecord c.op)

def Command.temp (c : Command) (k : TempIn → Instr) : Except DecodeError Instr :=
  match c.operands with
  | .temp t => .ok (k t)
  | _ => .error (.operandRecord c.op)

def Command.rate (c : Command) (k : FrameRate → Instr) : Except DecodeError Instr :=
  match c.operands with
  | .rate x => .ok (k x)
  | _ => .error (.operandRecord c.op)

def Command.rateOld (c : Command) (k : FrameRate → Byte → Instr) : Except DecodeError Instr :=
  match c.operands with
  | .rateOld x old => .ok (k x old)
  | _ => .error (.operandRecord c.op)

def Command.bool (c : Command) (k : Bool → Instr) : Except DecodeError Instr :=
  match c.operands with
  | .bool x => .ok (k x)
  | _ => .error (.operandRecord c.op)

def Command.boolOld (c : Command) (k : Bool → Byte → Instr) : Except DecodeError Instr :=
  match c.operands with
  | .boolOld x old => .ok (k x old)
  | _ => .error (.operandRecord c.op)

def Command.mode (c : Command) (k : Mode → Instr) : Except DecodeError Instr :=
  match c.operands with
  | .mode x => .ok (k x)
  | _ => .error (.operandRecord c.op)

def Command.str (c : Command) (k : String → Instr) : Except DecodeError Instr :=
  match c.operands with
  | .str x => .ok (k x)
  | _ => .error (.operandRecord c.op)

def Command.icfg (c : Command) (k : ICfgIn → Instr) : Except DecodeError Instr :=
  match c.operands with
  | .icfg x => .ok (k x)
  | _ => .error (.operandRecord c.op)

/-- The code's meaning (R72 to R77); every other code is reserved (R78). -/
def decode (c : Command) : Except DecodeError Instr :=
  match c.op with
  -- format CT, op[3:2] = fn, op[1:0] = prof (R72)
  | 0x00#8 => c.pair .dectPix
  | 0x01#8 => c.pair .dectDev
  | 0x02#8 => c.pair .dectHys
  | 0x04#8 => c.temp .enctPix
  | 0x05#8 => c.temp .enctDev
  | 0x06#8 => c.temp .enctHys
  | 0x08#8 => c.flagBytes .decpf
  -- format CE, op[3] = dir, op[2:0] = sel (R73)
  | 0x10#8 => c.byte .deceFr
  | 0x11#8 => c.byte .deceMa
  | 0x12#8 => c.byte .deceDm
  | 0x13#8 => c.byte .deceIe
  | 0x14#8 => c.byte .deceIa
  | 0x17#8 => c.str .parseFr
  | 0x18#8 => c.rateOld .enceFr
  | 0x19#8 => c.boolOld .enceMa
  | 0x1A#8 => c.mode .enceDm
  | 0x1B#8 => c.boolOld .enceIe
  | 0x1C#8 => c.boolOld .enceIa
  -- format M (R74)
  | 0x20#8 => c.noOperands .wake
  | 0x21#8 => c.noOperands .sleep
  | 0x22#8 => c.noOperands .asleep
  | 0x23#8 => c.noOperands .scopeEnter
  | 0x24#8 => c.noOperands .scopeExit
  -- format S (R75)
  | 0x30#8 => c.noOperands .image
  | 0x31#8 => c.noOperands .devtemp
  -- format CF (R76)
  | 0x40#8 => c.noOperands .rdFr
  | 0x41#8 => c.rate .wrFr
  | 0x42#8 => c.noOperands .rdMa
  | 0x43#8 => c.bool .wrMa
  | 0x44#8 => c.noOperands .rdIcfg
  | 0x45#8 => c.icfg .wrIcfg
  | 0x46#8 => c.noOperands .disInt
  -- format ST (R77)
  | 0x50#8 => c.noOperands .rdInt
  | 0x51#8 => c.noOperands .rdPxint
  | 0x52#8 => c.noOperands .rdOvf
  | 0x53#8 => c.noOperands .rstInt
  | 0x54#8 => c.noOperands .rstOvf
  | 0x55#8 => c.noOperands .rstFlags
  | op => .error (.reservedCode op)

/-- The command a host issues for an instruction (R72 to R77, R79). -/
def encode (i : Instr) : Command :=
  match i with
  | .dectPix b => ⟨0x00, .pair b⟩
  | .dectDev b => ⟨0x01, .pair b⟩
  | .dectHys b => ⟨0x02, .pair b⟩
  | .enctPix t => ⟨0x04, .temp t⟩
  | .enctDev t => ⟨0x05, .temp t⟩
  | .enctHys t => ⟨0x06, .temp t⟩
  | .decpf b => ⟨0x08, .flagBytes b⟩
  | .deceFr v => ⟨0x10, .byte v⟩
  | .deceMa v => ⟨0x11, .byte v⟩
  | .deceDm v => ⟨0x12, .byte v⟩
  | .deceIe v => ⟨0x13, .byte v⟩
  | .deceIa v => ⟨0x14, .byte v⟩
  | .parseFr str => ⟨0x17, .str str⟩
  | .enceFr x old => ⟨0x18, .rateOld x old⟩
  | .enceMa x old => ⟨0x19, .boolOld x old⟩
  | .enceDm x => ⟨0x1A, .mode x⟩
  | .enceIe x old => ⟨0x1B, .boolOld x old⟩
  | .enceIa x old => ⟨0x1C, .boolOld x old⟩
  | .wake => ⟨0x20, .none⟩
  | .sleep => ⟨0x21, .none⟩
  | .asleep => ⟨0x22, .none⟩
  | .scopeEnter => ⟨0x23, .none⟩
  | .scopeExit => ⟨0x24, .none⟩
  | .image => ⟨0x30, .none⟩
  | .devtemp => ⟨0x31, .none⟩
  | .rdFr => ⟨0x40, .none⟩
  | .wrFr x => ⟨0x41, .rate x⟩
  | .rdMa => ⟨0x42, .none⟩
  | .wrMa x => ⟨0x43, .bool x⟩
  | .rdIcfg => ⟨0x44, .none⟩
  | .wrIcfg c => ⟨0x45, .icfg c⟩
  | .disInt => ⟨0x46, .none⟩
  | .rdInt => ⟨0x50, .none⟩
  | .rdPxint => ⟨0x51, .none⟩
  | .rdOvf => ⟨0x52, .none⟩
  | .rstInt => ⟨0x53, .none⟩
  | .rstOvf => ⟨0x54, .none⟩
  | .rstFlags => ⟨0x55, .none⟩

/-- The operand record of a shape with every value zero: zero bytes, 0 degrees, false, the empty string, ASLEEP = 0
(R20), and LOW, the first of FrameRate's values, which have no numbers (log 1). -/
def zeroRecord : Shape → OperandRecord
  | .none => .none
  | .pair => .pair #v[0, 0]
  | .flagBytes => .flagBytes #v[0, 0, 0, 0, 0, 0, 0, 0]
  | .byte => .byte 0
  | .temp => .temp (.finite 0)
  | .rate => .rate .low
  | .rateOld => .rateOld .low 0
  | .bool => .bool false
  | .boolOld => .boolOld false 0
  | .mode => .mode .asleep
  | .str => .str ""
  | .icfg => .icfg ⟨false, false, .finite 0, .finite 0, .finite 0⟩

/-- The command whose code is the byte `op` and whose operands are all zero; a reserved code carries no operands. -/
def zeroCommand (op : Byte) : Command :=
  ⟨op, match operandShape op with
    | some k => zeroRecord k
    | none => .none⟩

/-- The command that an opcode-table word stands for: the table gives every row one byte, the code (R71), and no bits to
its operands, which are then all zero. Bits above that byte belong to no row. -/
def tableCommand (nbits w : Nat) : Option Command :=
  if w % 2 ^ nbits < 256 then some (zeroCommand (BitVec.ofNat 8 (w % 2 ^ nbits))) else none

/-- What the decoder reads from an opcode-table word of `nbits` bits. -/
def decodeTableWord (nbits w : Nat) : Option Instr :=
  match tableCommand nbits w with
  | some c => (decode c).toOption
  | none => none

end Sys2Proof
end

