-- ==== Sys2Proof/Machine/Memory.lean ====
section
/-! DEFINITION. The register space S (spec/20_memory.md R40) as a list of (address, byte) pairs in one canonical form. -/

namespace Sys2Proof.Machine

/-- The registers written since power-on, by rising address. -/
abbrev Memory := List Host.Cell

/-- Every address of the list is above `a`. -/
def Memory.above (a : Nat) (m : Memory) : Bool :=
  m.all fun c => decide (a < c.1)

/-- The canonical form: addresses strictly rising and inside the 256 registers (R40). An unlisted register reads as no
value (it has not been written), which no entry does. -/
def Memory.wf : Memory → Bool
  | [] => true
  | c :: rest => decide (c.1 < 256) && Memory.above c.1 rest && Memory.wf rest

/-- What was last written to register `a`, or none. -/
def Memory.lookup : Memory → Nat → Option Byte
  | [], _ => none
  | c :: rest, a => if c.1 = a then some c.2 else Memory.lookup rest a

/-- Write byte `v` to register `a`. -/
def Memory.write : Memory → Nat → Byte → Memory
  | [], a, v => [(a, v)]
  | c :: rest, a, v =>
    if c.1 = a then (a, v) :: rest
    else if a < c.1 then (a, v) :: c :: rest
    else c :: Memory.write rest a v

/-- Register `a` before anything has written it holds its power-on value: a draw, fixed once per run (R52, R242; log 6). -/
def Memory.unlisted (a : Nat) : Byte := Config.powerOnByte a

/-- The byte register `a` holds. -/
def Memory.byteAt (m : Memory) (a : Nat) : Byte :=
  (m.lookup a).getD (Memory.unlisted a)

/-- Bytes `vs` written to consecutive registers from `a`. -/
def Memory.writeBytes : Memory → Nat → List Byte → Memory
  | m, _, [] => m
  | m, a, v :: vs => (m.write a v).writeBytes (a + 1) vs

/-- The registers changed by the environment, in order. -/
def Memory.change (m : Memory) (cs : List RegValue) : Memory :=
  cs.foldl (fun m c => m.write c.1.val c.2) m

end Sys2Proof.Machine
end

