-- ==== Sys2Proof/Machine/RegisterMap.lean ====
section
/-! DEFINITION. The reference binding of the register map (spec/30_encoding.md R80 to R85, R90) and the class of a
register (spec/20_memory.md R51). -/

namespace Sys2Proof.Machine

/-- The reference binding of `RM` (R80 to R85, R90). -/
def referenceMap : RegMap where
  pctl := 0x00
  rst := 0x01
  fpsc := 0x02
  intc := 0x03
  stat := 0x04
  sclr := 0x05
  ave := 0x07
  inth := 0x08
  intl := 0x0A
  ihys := 0x0C
  tth := 0x0E
  pxfBase := 0x10
  pixBase := 0x80
  pctlAwake := 0x00
  pctlSleep := 0x10
  fpsBit := 0
  fpsLowVal := true
  maBit := 5
  intenBit := 0
  intmodBit := 1
  intfBit := 1
  ovfBit := 2
  rstIntPat := (0x05, 0x02)
  rstOvfPat := (0x05, 0x04)
  rstAllPat := (0x01, 0x30)

/-- The default configuration: the reference binding and GATE_POLICY = ISSUE (R5); DEV_ADDR is open (log 11). -/
def referenceCfg : Cfg where
  rm := referenceMap
  devAddr := .a
  policy := .issue

/-- The classes of R51; `unnamed` is a register the block never accesses (R64). -/
inductive RegClass
  | stored
  | sensorDriven
  | reset
  | unnamed
deriving DecidableEq, Repr

/-- Address `a` is one of the `n` registers from `base`. -/
def within (a base n : Nat) : Bool := decide (base ≤ a) && decide (a < base + n)

/-- Class D: STAT, the per-pixel flag table, the TTH pair, the pixel temperature table (R51). -/
def isSensorDriven (m : RegMap) (a : Nat) : Bool :=
  a == m.stat.val || within a m.pxfBase.val 8 || within a m.tth.val 2 || within a m.pixBase.val 128

/-- Class X: SCLR and RST (R51). -/
def isReset (m : RegMap) (a : Nat) : Bool :=
  a == m.sclr.val || a == m.rst.val

/-- Class C: PCTL, FPSC, AVE, INTC, and the INTH, INTL and IHYS pairs (R51). -/
def isStored (m : RegMap) (a : Nat) : Bool :=
  a == m.pctl.val || a == m.fpsc.val || a == m.ave.val || a == m.intc.val || within a m.inth.val 2 ||
    within a m.intl.val 2 || within a m.ihys.val 2

/-- The class of register `a` (R51). -/
def classOf (m : RegMap) (a : Nat) : RegClass :=
  if isStored m a then .stored
  else if isSensorDriven m a then .sensorDriven
  else if isReset m a then .reset
  else .unnamed

end Sys2Proof.Machine
end

