-- ==== Sys2Proof/Machine/Flags.lean ====
section
/-! DEFINITION. Single bits of registers: the bit helpers, the enum-bit codecs (spec/40_codec.md R119 to R129), and the
sensor's status flags (spec/20_memory.md R54, R55). -/

namespace Sys2Proof.Machine

/-- `getbit(v, p) = 1` (R119). -/
def getBit (v : Byte) (p : Fin 8) : Bool := (v >>> p.val) &&& 1#8 == 1#8

/-- A bit as a number 0 or 1 in a byte. -/
def bitByte (x : Bool) : Byte := if x then 1#8 else 0#8

/-- `setbit(v, p, x) = (v & ~(1 << p)) | (x << p)` (R119). -/
def setBit (v : Byte) (p : Fin 8) (x : Bool) : Byte := (v &&& ~~~(1#8 <<< p.val)) ||| (bitByte x <<< p.val)

/-- DECE.FR's value (R120). -/
def decodeFrameRate (m : RegMap) (v : Byte) : FrameRate :=
  if getBit v m.fpsBit = m.fpsLowVal then .low else .high

/-- The frame-rate bit of a rate (R82, R121). -/
def frameRateBit (m : RegMap) : FrameRate → Bool
  | .low => m.fpsLowVal
  | .high => !m.fpsLowVal

/-- DECE.DM's value: the whole byte is the encoding (R81, R124). -/
def decodePower (m : RegMap) (v : Byte) : ModeRead :=
  if v = m.pctlAwake then .awake else if v = m.pctlSleep then .asleep else .unknown

/-- ENCE.DM's value (R125). -/
def powerCode (m : RegMap) : Mode → Byte
  | .awake => m.pctlAwake
  | .asleep => m.pctlSleep

/-- PARSE.FR's value: exact match, none for any other string (R130). -/
def parseFrameRate (str : String) : Option FrameRate :=
  if str = "low" then some .low else if str = "high" then some .high else none

/-- RD_INT's value from the bytes of INTC and STAT: `INTF or not enabled` (R190). -/
def interruptFlag (m : RegMap) (intc stat : Byte) : Bool :=
  getBit stat m.intfBit || !getBit intc m.intenBit

/-- INTC with both named fields replaced (R175). -/
def controlByte (m : RegMap) (old : Byte) (enabled absolute : Bool) : Byte :=
  setBit (setBit old m.intenBit enabled) m.intmodBit absolute

/-- Clear one flag bit of STAT (R54). -/
def clearStatBit (m : RegMap) (p : Fin 8) (mem : Memory) : Memory :=
  mem.write m.stat.val (setBit (mem.byteAt m.stat.val) p false)

/-- Clear every per-pixel flag (R54). -/
def clearPixelFlags (m : RegMap) (mem : Memory) : Memory :=
  mem.writeBytes m.pxfBase.val (List.replicate 8 0)

/-- The RST_INT pattern: INTF only (R54). -/
def clearInt (m : RegMap) (mem : Memory) : Memory := clearStatBit m m.intfBit mem

/-- The RST_OVF pattern: OVF only (R54). -/
def clearOvf (m : RegMap) (mem : Memory) : Memory := clearStatBit m m.ovfBit mem

/-- The RST_FLAGS pattern: INTF, OVF and every PXF (R54). -/
def clearAll (m : RegMap) (mem : Memory) : Memory :=
  clearPixelFlags m (clearStatBit m m.ovfBit (clearStatBit m m.intfBit mem))

/-- The byte an awake sensor presents at register `a`: what it holds, but STAT's INTF bit is 1 while INTC's enabled bit is
0 (R52, R53, R55). -/
def presented (m : RegMap) (mem : Memory) (a : Nat) : Byte :=
  if a = m.stat.val ∧ getBit (mem.byteAt m.intc.val) m.intenBit = false then setBit (mem.byteAt a) m.intfBit true
  else mem.byteAt a

end Sys2Proof.Machine
end

