-- ==== Sys2Proof/Machine/Operands.lean ====
section
/-! DEFINITION. The temperature-field codec and the grids (spec/30_encoding.md R86 to R89; spec/40_codec.md R100 to
R118): operands and results of the commands as values. -/

namespace Sys2Proof.Machine

/-- Field width w (R86): PIX_W, DEV_W, HYS_W of R5. -/
def width : Profile → Nat
  | .pixel => 12
  | .device => 11
  | .hyst => 12

/-- Signedness (R86). -/
def signed : Profile → Bool
  | .pixel => true
  | .device => true
  | .hyst => false

/-- °C per LSB (R86): PIX_LSB, DEV_LSB, HYS_LSB of R5. -/
def lsb : Profile → Rat
  | .pixel => 1 / 4
  | .device => 1 / 16
  | .hyst => 1 / 4

/-- The least integer of the profile (R86, R109). -/
def lo : Profile → Int
  | .pixel => -2048
  | .device => -1024
  | .hyst => 0

/-- The greatest integer of the profile (R86, R109). -/
def hi : Profile → Int
  | .pixel => 2047
  | .device => 1023
  | .hyst => 4095

/-- `raw16 = b[0] | (b[1] << 8)` (R41, R100). -/
def raw16 (b : Pair) : BitVec 16 := b[0].setWidth 16 ||| (b[1].setWidth 16 <<< 8)

/-- `raw16[w-1:0]` (R100). -/
def field (b : Pair) (p : Profile) : Nat := (raw16 b).toNat % 2 ^ width p

/-- `sext_N(v)` (R8). -/
def sext (n v : Nat) : Int := if v.testBit (n - 1) then (v : Int) - 2 ^ n else v

/-- The field as an integer: sign-extended when the profile is signed, else as it is (R101, R102). -/
def fieldValue (b : Pair) (p : Profile) : Int :=
  if signed p then sext (width p) (field b p) else field b p

/-- `decode_temperature` (R100 to R103): exact. -/
def decodeTemperature (b : Pair) (p : Profile) : Rat := (fieldValue b p : Rat) * lsb p

/-- `round_half_even` (R11). -/
def roundHalfEven (q : Rat) : Int :=
  let n := q.floor
  let r := q - n
  if r < 1 / 2 then n
  else if 1 / 2 < r then n + 1
  else if n % 2 = 0 then n
  else n + 1

/-- `clamp` (R11). -/
def clamp (n a b : Int) : Int := if n < a then a else if b < n then b else n

/-- The integer an input encodes to, or none for NaN (R107 to R109). -/
def encodeValue (t : TempIn) (p : Profile) : Option Int :=
  match t with
  | .nan => none
  | .posInf => some (hi p)
  | .negInf => some (lo p)
  | .finite q => some (clamp (roundHalfEven (q / lsb p)) (lo p) (hi p))

/-- Packing: the w-bit pattern of n, unused bits 0, low byte first (R87, R110). -/
def packField (n : Int) (p : Profile) : Pair :=
  let f := (n % 2 ^ width p).toNat
  #v[BitVec.ofNat 8 f, BitVec.ofNat 8 (f / 256)]

/-- `encode_temperature` (R107 to R110); none stands for `ValueOutOfRange`. -/
def encodeTemperature (t : TempIn) (p : Profile) : Option Pair :=
  (encodeValue t p).map (packField · p)

/-- Pixel i is grid position [i div 8][i mod 8] (R12, R88). -/
def gridOf {α : Type} (f : Fin 64 → α) : Grid α :=
  Vector.ofFn fun r => Vector.ofFn fun c => f ⟨8 * r.val + c.val, by omega⟩

/-- `DECPF`: pixel i is bit (i mod 8) of byte (i div 8) (R89, R118). -/
def decodePixelFlags (b : FlagBytes) : Grid Bool :=
  gridOf fun i => (b[i.val / 8] >>> (i.val % 8)) &&& 1#8 == 1#8

/-- The image's pixel pairs: pixel i is `[b[2i], b[2i+1]]` (R88, R160). -/
def decodeImage (b : Vector Byte 128) : Grid Rat :=
  gridOf fun i => decodeTemperature #v[b[2 * i.val], b[2 * i.val + 1]] .pixel

end Sys2Proof.Machine
end

