-- ==== Sys2Proof/Machine/State.lean ====
section
/-! DEFINITION. The state the spec gives the machine (spec/10_state.md), as plain data, and the state at construction
(spec/70_reset_and_hazards.md R240). -/

namespace Sys2Proof.Machine

/-- The status codes of the command port (R210). -/
inductive Status
  | ok
  | transferError
  | valueOutOfRange
  | invalidEnumValue
  | illegalCommand
  | nestedScope
  | noScope
  | gateRefused
deriving DecidableEq, Repr

/-- The direction of a BusPort call. -/
inductive Dir
  | read
  | write
deriving DecidableEq, Repr

/-- The temperatures of an interrupt configuration, in the order WR_ICFG checks them (R212). -/
inductive LimitField
  | upper
  | lower
  | hysteresis
deriving DecidableEq, Repr

/-- What an error records for the host (R211 to R213). -/
inductive Info
  | none
  /-- The command code, the register address and direction of the failing transfer, the BusPort's error (R211). -/
  | transfer (op : Byte) (addr : Nat) (dir : Dir) (error : BusError)
  /-- The profile, and for WR_ICFG which field (R212). -/
  | range (prof : Profile) (field : Option LimitField)
  /-- The string (R213). -/
  | badEnum (str : String)
deriving DecidableEq, Repr

/-- A command's result, one constructor per result shape of R79. -/
inductive Value
  | nothing
  | temp (t : Rat)
  | pair (b : Pair)
  | byte (v : Byte)
  | bool (x : Bool)
  | rate (x : FrameRate)
  | modeRead (x : ModeRead)
  | flags (g : Grid Bool)
  | image (g : Grid Rat)
  | icfg (c : ICfg)
deriving DecidableEq, Repr

/-- The block's answer to a command: a status, a result only when the status is OK (R79, R219), and what it records. -/
structure Reply where
  status : Status
  result : Option Value
  info : Info
deriving DecidableEq, Repr

/-- One BusPort call of the block and what came of it (R42, R43). -/
structure BusCall where
  dev : DevAddr
  dir : Dir
  addr : Nat
  len : Nat
  /-- The bytes written, or the bytes a read that succeeded returned. -/
  data : List Byte
  error : Option BusError
deriving DecidableEq, Repr

/-- The sensor's real power state, as far as the block's transfers fix it (R30, R56). -/
inductive SensorPower
  | awake
  | asleep
  | unknown
deriving DecidableEq, Repr

/-- What the environment will answer: the coming answers, head first, and, for when they run out, how many free answers
have been drawn (log 5). -/
structure Env where
  script : List BusAnswer
  count : Nat
deriving DecidableEq, Repr

structure State where
  /-- `Cfg`, fixed at construction (R26). -/
  cfg : Cfg
  /-- The mode FSM's state (R20). -/
  mode : Mode
  /-- A scoped use is open (R22). -/
  scopeActive : Bool
  /-- The sticky fault bit (R23). -/
  gateViolation : Bool
  /-- The sticky refusal mark (R24). -/
  refused : Bool
  /-- The sensor's register space S (R27, R40). -/
  mem : Memory
  /-- The sensor's real power state (R30, R56). -/
  power : SensorPower
  /-- The environment's coming answers (R44 to R57; log 5). -/
  env : Env
  /-- Whose the coming steps are, head first (R57; log 21). -/
  turns : List Turn
  /-- The command port: the commands the host issues, the one the port carries first (R70; log 2). -/
  port : List Command
  /-- The answer to the last command (R70). -/
  reply : Option Reply
  /-- The BusPort calls of the last command, in order (R58; log 12). -/
  bus : List BusCall
deriving DecidableEq, Repr

/-- The block never stops with a fault: "every command either completes, raises or is refused", and what the spec calls
error, refusal and fault bit are next states (R217, R219, R222; logs 13, 14). No constructor: nothing raises one. -/
inductive Fault
deriving DecidableEq, Repr

/-- Why the model gives a step no meaning. -/
inductive Refusal
  /-- Raised by an arm of `exec` for an instruction without a meaning; safe. No arm raises it. -/
  | notModelled (mnemonic : String)
  /-- Raised by `step` when the port carries an operand record whose shape does not fit its code, which R70 and R79 say
  it never does; safe (log 3). -/
  | operandRecord (op : Byte)
deriving DecidableEq, Repr

def State.withMode (s : State) (x : Mode) : State := { s with mode := x }
def State.withScope (s : State) (x : Bool) : State := { s with scopeActive := x }
def State.withGate (s : State) (x : Bool) : State := { s with gateViolation := x }
def State.withRefused (s : State) (x : Bool) : State := { s with refused := x }
def State.withMem (s : State) (x : Memory) : State := { s with mem := x }
def State.withPower (s : State) (x : SensorPower) : State := { s with power := x }
def State.withEnv (s : State) (x : Env) : State := { s with env := x }
def State.withTurns (s : State) (x : List Turn) : State := { s with turns := x }
def State.withPort (s : State) (x : List Command) : State := { s with port := x }
def State.withReply (s : State) (x : Option Reply) : State := { s with reply := x }
def State.withBus (s : State) (x : List BusCall) : State := { s with bus := x }

/-- Construction with a configuration: the four block bits at their values, no transfer issued, every sensor register and
the sensor's power state unspecified (R31, R240, R242). -/
def State.construct (cfg : Cfg) : State where
  cfg := cfg
  mode := .asleep
  scopeActive := false
  gateViolation := false
  refused := false
  mem := []
  power := .unknown
  env := ⟨[], 0⟩
  turns := []
  port := []
  reply := none
  bus := []

/-- The machine right after reset: constructed with the default configuration (R5, R240). -/
def State.reset : State := State.construct referenceCfg

end Sys2Proof.Machine
end

