-- ==== Sys2Proof/Machine/Ops.lean ====
section
/-! DEFINITION. The shared operations: how a command ends (answering, raising, refusing: spec/60_exceptions.md R210 to
R222), the bus primitives over the sensor (spec/20_memory.md R42 to R57), the gate (spec/41_mode_fsm.md R140 to R142),
and the read-modify-write (spec/43_config.md R178). -/

namespace Sys2Proof.Machine

/-! ### How a command ends -/

/-- `raise E(info)` and `refuse R` (R9), with what they record (R211 to R216). -/
inductive Stop
  | transfer (op : Byte) (addr : Nat) (dir : Dir) (error : BusError)
  | range (prof : Profile) (field : Option LimitField)
  | badEnum (str : String)
  | illegal
  | nested
  | noScope
  | gate
deriving DecidableEq, Repr

/-- How far a command has come: on with a value, or ended; no later step of an ended command runs (R9). -/
inductive Res (α : Type)
  | ok (a : α) (s : State)
  | stop (e : Stop) (s : State)

/-- The command's next step, which runs only when the step before did not end the command (R9, R211). -/
def Res.andThen {α β : Type} (r : Res α) (k : α → State → Res β) : Res β :=
  match r with
  | .ok a s => k a s
  | .stop e s => .stop e s

/-- The status code of an ending (R210). -/
def Stop.status : Stop → Status
  | .transfer _ _ _ _ => .transferError
  | .range _ _ => .valueOutOfRange
  | .badEnum _ => .invalidEnumValue
  | .illegal => .illegalCommand
  | .nested => .nestedScope
  | .noScope => .noScope
  | .gate => .gateRefused

/-- What an ending records (R211 to R213). -/
def Stop.info : Stop → Info
  | .transfer op addr dir error => .transfer op addr dir error
  | .range prof field => .range prof field
  | .badEnum str => .badEnum str
  | .illegal => .none
  | .nested => .none
  | .noScope => .none
  | .gate => .none

/-- The endings that are refusals, not errors (R210). -/
def Stop.isRefusal : Stop → Bool
  | .transfer _ _ _ _ => false
  | .range _ _ => false
  | .badEnum _ => false
  | .illegal => true
  | .nested => true
  | .noScope => true
  | .gate => true

/-- The numeric status codes (R210). -/
def Status.code : Status → Nat
  | .ok => 0
  | .transferError => 1
  | .valueOutOfRange => 2
  | .invalidEnumValue => 3
  | .illegalCommand => 4
  | .nestedScope => 5
  | .noScope => 6
  | .gateRefused => 7

/-- Ending a command with an error or a refusal: no result, the status, what it records, and the sticky mark when it is a
refusal; nothing else is saved (R24, R211 to R216, R219). -/
def raise (e : Stop) (s : State) : State :=
  (s.withRefused (s.refused || e.isRefusal)).withReply (some ⟨e.status, none, e.info⟩)

/-- Ending a command with status OK and its result (R79, R210). -/
def deliver (v : Value) (s : State) : State :=
  s.withReply (some ⟨.ok, some v, .none⟩)

/-- The state a command leaves; from it the next command runs normally (R219, R222). -/
def conclude : Res Value → State
  | .ok v s => deliver v s
  | .stop e s => raise e s

/-- A command begins: it has issued no call yet. -/
def start (s : State) : State := s.withBus []

/-- A command from its first step to its end (R58, R70). -/
def perform (body : State → Res Value) (s : State) : Host.Outcome State Fault Refusal :=
  .next (conclude (body (start s)))

/-- A reserved code: no transfer, ILLEGAL_COMMAND, and the sticky mark (R78, R214). -/
def illegalCommand (s : State) : State := raise .illegal (start s)

/-! ### The environment -/

/-- What the environment answers at the next transfer: the script's head, or a free answer (log 5). -/
def Env.answer (e : Env) : BusAnswer :=
  match e.script with
  | a :: _ => a
  | [] => Config.freeAnswer e.count

/-- The environment after that transfer. -/
def Env.advance (e : Env) : Env :=
  match e.script with
  | _ :: rest => { e with script := rest }
  | [] => { e with count := e.count + 1 }

/-- Frame events: class D registers change, and no other (R57). -/
def frameEvents (m : RegMap) (frames : List RegValue) (mem : Memory) : Memory :=
  mem.change (frames.filter fun c => isSensorDriven m c.1.val)

/-- Frame events happen: nothing but the register space changes (R57). -/
def frameStep (frames : List RegValue) (s : State) : State :=
  s.withMem (frameEvents s.cfg.rm frames s.mem)

/-- The state at the moment a transfer is issued: the frame events since the one before have happened (R57). -/
def beforeTransfer (s : State) : State :=
  (frameStep s.env.answer.frames s).withEnv s.env.advance

/-- The block has made a BusPort call (R42, R43, R58). -/
def record (c : BusCall) (s : State) : State := s.withBus (s.bus ++ [c])

/-! ### Reading -/

/-- Byte k of a read from `a`: what an awake sensor presents (R52, R53, R55); from a sensor that is asleep or in an
unknown state, whatever it draws (R56; log 8). -/
def readByte (ans : BusAnswer) (s : State) (a k : Nat) : Byte :=
  if s.power = .awake then presented s.cfg.rm s.mem (a + k)
  else (ans.drawn[k]?).getD (presented s.cfg.rm s.mem (a + k))

/-- `MemRead(a, n)`: the bytes, or `TransferError`; no effect on S either way (R42, R44, R50). -/
def memRead {n : Nat} (op : Byte) (a : RegBase n) (s : State) : Res (Vector Byte n) :=
  let ans := s.env.answer
  let s1 := beforeTransfer s
  match ans.error with
  | some e => .stop (.transfer op a.val .read e) (record ⟨s.cfg.devAddr, .read, a.val, n, [], some e⟩ s1)
  | none =>
    let b := Vector.ofFn fun k : Fin n => readByte ans s1 a.val k.val
    .ok b (record ⟨s.cfg.devAddr, .read, a.val, n, b.toList, none⟩ s1)

/-! ### Writing -/

/-- The registers an n-byte write from `a` names, with their bytes (R43). -/
def cellsFrom : Nat → List Byte → List Host.Cell
  | _, [] => []
  | a, v :: vs => (a, v) :: cellsFrom (a + 1) vs

/-- Those of them that the sensor took in a write that failed (R44). -/
def cellsTaken : Nat → List Byte → List Bool → List Host.Cell
  | _, [], _ => []
  | a, v :: vs, ts => (if ts.headD false then [(a, v)] else []) ++ cellsTaken (a + 1) vs ts.tail

/-- A byte written to a status-reset register: a pattern clears its flags and nothing else, any other byte does to the flags
what the environment says (R54; log 16). -/
def resetFlags (m : RegMap) (ans : BusAnswer) (mem : Memory) (c : Host.Cell) : Memory :=
  if c = (m.rstIntPat.1.val, m.rstIntPat.2) then clearInt m mem
  else if c = (m.rstOvfPat.1.val, m.rstOvfPat.2) then clearOvf m mem
  else if c = (m.rstAllPat.1.val, m.rstAllPat.2) then clearAll m mem
  else mem.change (ans.effect.filter fun e => e.1.val == m.stat.val || within e.1.val m.pxfBase.val 8)

/-- One byte taken by an awake sensor (R51 to R54). The block writes no class D and no unnamed register (R51, R64, R196);
what such a write would do is the environment's to say (log 16). -/
def takeByte (m : RegMap) (ans : BusAnswer) (mem : Memory) (c : Host.Cell) : Memory :=
  match classOf m c.1 with
  | .stored => mem.write c.1 c.2
  | .reset => resetFlags m ans mem c
  | .sensorDriven => mem.change ans.effect
  | .unnamed => mem.change ans.effect

/-- The sensor's power state once PCTL holds `v`: known only if the write succeeded (R56, R143; log 7). -/
def powerAfter (m : RegMap) (failed : Bool) (v : Byte) : SensorPower :=
  if failed then .unknown
  else match decodePower m v with
    | .awake => .awake
    | .asleep => .asleep
    | .unknown => .unknown

/-- What a write to `a` does at the sensor, given the bytes it took: a PCTL write sets its power state; another write
stores and clears when the sensor is awake, and otherwise has the effect the environment says (R52, R54, R56). -/
def sensorTakes (failed : Bool) (ans : BusAnswer) (a : Nat) (cells : List Host.Cell) (s : State) : State :=
  if a = s.cfg.rm.pctl.val then
    let mem := cells.foldl (fun m c => m.write c.1 c.2) s.mem
    (s.withMem mem).withPower (powerAfter s.cfg.rm failed (mem.byteAt a))
  else if s.power = .awake then s.withMem (cells.foldl (takeByte s.cfg.rm ans) s.mem)
  else s.withMem (s.mem.change ans.effect)

/-- `MemWrite(a, n, v)`: done, or `TransferError` with any subset of the bytes taken (R43, R44). -/
def memWrite {n : Nat} (op : Byte) (a : RegBase n) (v : Vector Byte n) (s : State) : Res Unit :=
  let ans := s.env.answer
  let s1 := beforeTransfer s
  match ans.error with
  | some e =>
    .stop (.transfer op a.val .write e)
      (record ⟨s.cfg.devAddr, .write, a.val, n, v.toList, some e⟩
        (sensorTakes true ans a.val (cellsTaken a.val v.toList ans.taken) s1))
  | none =>
    .ok () (record ⟨s.cfg.devAddr, .write, a.val, n, v.toList, none⟩
      (sensorTakes false ans a.val (cellsFrom a.val v.toList) s1))

/-! ### The gate and the shared command bodies -/

/-- `gate_check()` (R140 to R142). -/
def gateCheck (s : State) : Res Unit :=
  match s.mode with
  | .awake => .ok () s
  | .asleep =>
    match s.cfg.policy with
    | .refuse => .stop .gate s
    | .issue => .ok () (s.withGate true)

/-- `rmw(addr, p, x)`: every other bit keeps the value the read returned (R178). -/
def rmw (op : Byte) (a : RegBase 1) (p : Fin 8) (x : Bool) (s : State) : Res Unit :=
  (memRead op a s).andThen fun old s => memWrite op a #v[setBit old[0] p x] s

/-- Write PCTL, and only after the write succeeded set `mode` (R20, R143, R144). -/
def setPower (op : Byte) (x : Mode) (s : State) : Res Unit :=
  (memWrite op s.cfg.rm.pctl #v[powerCode s.cfg.rm x] s).andThen fun _ s => .ok () (s.withMode x)

/-- A command without a result answers OK and nothing. -/
def nothing (r : Res Unit) : Res Value := r.andThen fun _ s => .ok .nothing s

/-- Encode a temperature, or raise `ValueOutOfRange` and say which (R107, R212). -/
def encodeOrRaise (t : TempIn) (p : Profile) (f : Option LimitField) (s : State) : Res Pair :=
  match encodeTemperature t p with
  | some b => .ok b s
  | none => .stop (.range p f) s

end Sys2Proof.Machine
end

