-- ==== Sys2Proof/Machine/Configuration.lean ====
section
/-! DEFINITION. Format CF: configuration commands (spec/43_config.md R170 to R178). -/

namespace Sys2Proof.Machine

/-- RD_FR (R170). -/
def execRdFr (s : State) : Host.Outcome State Fault Refusal :=
  perform (fun s =>
    (memRead 0x40 s.cfg.rm.fpsc s).andThen fun v s =>
    .ok (.rate (decodeFrameRate s.cfg.rm v[0])) s) s

/-- WR_FR (R171). -/
def execWrFr (x : FrameRate) (s : State) : Host.Outcome State Fault Refusal :=
  perform (fun s => nothing (rmw 0x41 s.cfg.rm.fpsc s.cfg.rm.fpsBit (frameRateBit s.cfg.rm x) s)) s

/-- RD_MA (R172). -/
def execRdMa (s : State) : Host.Outcome State Fault Refusal :=
  perform (fun s =>
    (memRead 0x42 s.cfg.rm.ave s).andThen fun v s =>
    .ok (.bool (getBit v[0] s.cfg.rm.maBit)) s) s

/-- WR_MA (R173). -/
def execWrMa (x : Bool) (s : State) : Host.Outcome State Fault Refusal :=
  perform (fun s => nothing (rmw 0x43 s.cfg.rm.ave s.cfg.rm.maBit x s)) s

/-- RD_ICFG: four reads, in this order (R174). -/
def execRdIcfg (s : State) : Host.Outcome State Fault Refusal :=
  perform (fun s =>
    (memRead 0x44 s.cfg.rm.intc s).andThen fun ctl s =>
    (memRead 0x44 s.cfg.rm.inth s).andThen fun u s =>
    (memRead 0x44 s.cfg.rm.intl s).andThen fun l s =>
    (memRead 0x44 s.cfg.rm.ihys s).andThen fun h s =>
    .ok (.icfg
      { enabled := getBit ctl[0] s.cfg.rm.intenBit
        absolute := getBit ctl[0] s.cfg.rm.intmodBit
        upper := decodeTemperature u .pixel
        lower := decodeTemperature l .pixel
        hysteresis := decodeTemperature h .hyst }) s) s

/-- WR_ICFG: all three temperatures encoded, then the gate, then five transfers in this order (R175, R212, R218). -/
def execWrIcfg (c : ICfgIn) (s : State) : Host.Outcome State Fault Refusal :=
  perform (fun s =>
    (encodeOrRaise c.upper .pixel (some .upper) s).andThen fun eu s =>
    (encodeOrRaise c.lower .pixel (some .lower) s).andThen fun el s =>
    (encodeOrRaise c.hysteresis .hyst (some .hysteresis) s).andThen fun eh s =>
    (gateCheck s).andThen fun _ s =>
    (memRead 0x45 s.cfg.rm.intc s).andThen fun old s =>
    (memWrite 0x45 s.cfg.rm.inth eu s).andThen fun _ s =>
    (memWrite 0x45 s.cfg.rm.intl el s).andThen fun _ s =>
    (memWrite 0x45 s.cfg.rm.ihys eh s).andThen fun _ s =>
    nothing (memWrite 0x45 s.cfg.rm.intc #v[controlByte s.cfg.rm old[0] c.enabled c.absolute] s)) s

/-- DIS_INT (R176). -/
def execDisInt (s : State) : Host.Outcome State Fault Refusal :=
  perform (fun s =>
    (gateCheck s).andThen fun _ s =>
    nothing (rmw 0x46 s.cfg.rm.intc s.cfg.rm.intenBit false s)) s

end Sys2Proof.Machine
end

