-- ==== Sys2Proof/Machine/EnumCodec.lean ====
section
/-! DEFINITION. Format CE: enum bits and the FrameRate string (spec/40_codec.md R119 to R130). -/

namespace Sys2Proof.Machine

/-- DECE.FR (R120). -/
def execDeceFr (v : Byte) (s : State) : Host.Outcome State Fault Refusal :=
  perform (fun s => .ok (.rate (decodeFrameRate s.cfg.rm v)) s) s

/-- DECE.MA (R122). -/
def execDeceMa (v : Byte) (s : State) : Host.Outcome State Fault Refusal :=
  perform (fun s => .ok (.bool (getBit v s.cfg.rm.maBit)) s) s

/-- DECE.DM (R124). -/
def execDeceDm (v : Byte) (s : State) : Host.Outcome State Fault Refusal :=
  perform (fun s => .ok (.modeRead (decodePower s.cfg.rm v)) s) s

/-- DECE.IE (R126). -/
def execDeceIe (v : Byte) (s : State) : Host.Outcome State Fault Refusal :=
  perform (fun s => .ok (.bool (getBit v s.cfg.rm.intenBit)) s) s

/-- DECE.IA (R128). -/
def execDeceIa (v : Byte) (s : State) : Host.Outcome State Fault Refusal :=
  perform (fun s => .ok (.bool (getBit v s.cfg.rm.intmodBit)) s) s

/-- PARSE.FR (R130, R213). -/
def execParseFr (str : String) (s : State) : Host.Outcome State Fault Refusal :=
  perform (fun s => match parseFrameRate str with
    | some x => .ok (.rate x) s
    | none => .stop (.badEnum str) s) s

/-- ENCE.FR (R121). -/
def execEnceFr (x : FrameRate) (old : Byte) (s : State) : Host.Outcome State Fault Refusal :=
  perform (fun s => .ok (.byte (setBit old s.cfg.rm.fpsBit (frameRateBit s.cfg.rm x))) s) s

/-- ENCE.MA (R123). -/
def execEnceMa (x : Bool) (old : Byte) (s : State) : Host.Outcome State Fault Refusal :=
  perform (fun s => .ok (.byte (setBit old s.cfg.rm.maBit x)) s) s

/-- ENCE.DM (R125). -/
def execEnceDm (x : Mode) (s : State) : Host.Outcome State Fault Refusal :=
  perform (fun s => .ok (.byte (powerCode s.cfg.rm x)) s) s

/-- ENCE.IE (R127). -/
def execEnceIe (x : Bool) (old : Byte) (s : State) : Host.Outcome State Fault Refusal :=
  perform (fun s => .ok (.byte (setBit old s.cfg.rm.intenBit x)) s) s

/-- ENCE.IA (R129). -/
def execEnceIa (x : Bool) (old : Byte) (s : State) : Host.Outcome State Fault Refusal :=
  perform (fun s => .ok (.byte (setBit old s.cfg.rm.intmodBit x)) s) s

end Sys2Proof.Machine
end

