-- ==== Sys2Proof/Machine/ModeFsm.lean ====
section
/-! DEFINITION. Format M: the mode FSM (spec/41_mode_fsm.md R143 to R147). -/

namespace Sys2Proof.Machine

/-- WAKE (R143). -/
def execWake (s : State) : Host.Outcome State Fault Refusal :=
  perform (fun s => nothing (setPower 0x20 .awake s)) s

/-- SLEEP (R144). -/
def execSleep (s : State) : Host.Outcome State Fault Refusal :=
  perform (fun s => nothing (setPower 0x21 .asleep s)) s

/-- ASLEEP (R145). -/
def execAsleep (s : State) : Host.Outcome State Fault Refusal :=
  perform (fun s => .ok (.bool (s.mode == .asleep)) s) s

/-- SCOPE_ENTER: `scope_active` is set after the wake succeeds (R22, R146). -/
def execScopeEnter (s : State) : Host.Outcome State Fault Refusal :=
  perform (fun s =>
    if s.scopeActive then .stop .nested s
    else nothing ((setPower 0x23 .awake s).andThen fun _ s => .ok () (s.withScope true))) s

/-- SCOPE_EXIT: `scope_active` is cleared before the sleep is attempted (R22, R147). -/
def execScopeExit (s : State) : Host.Outcome State Fault Refusal :=
  perform (fun s =>
    if s.scopeActive then nothing (setPower 0x24 .asleep (s.withScope false))
    else .stop .noScope s) s

end Sys2Proof.Machine
end

