-- ==== Sys2Proof/Machine/Samples.lean ====
section
/-! DEFINITION. Format S: sample reads (spec/42_samples.md R160 to R162). -/

namespace Sys2Proof.Machine

/-- IMAGE (R160, R162). -/
def execImage (s : State) : Host.Outcome State Fault Refusal :=
  perform (fun s =>
    (gateCheck s).andThen fun _ s =>
    (memRead 0x30 s.cfg.rm.pixBase s).andThen fun b s =>
    .ok (.image (decodeImage b)) s) s

/-- DEVTEMP (R161). -/
def execDevtemp (s : State) : Host.Outcome State Fault Refusal :=
  perform (fun s =>
    (gateCheck s).andThen fun _ s =>
    (memRead 0x31 s.cfg.rm.tth s).andThen fun b s =>
    .ok (.temp (decodeTemperature b .device)) s) s

end Sys2Proof.Machine
end

