-- ==== Sys2Proof/Machine/StatusCommands.lean ====
section
/-! DEFINITION. Format ST: status commands (spec/44_status.md R190 to R196). -/

namespace Sys2Proof.Machine

/-- RD_INT: INTC, then STAT (R190). -/
def execRdInt (s : State) : Host.Outcome State Fault Refusal :=
  perform (fun s =>
    (memRead 0x50 s.cfg.rm.intc s).andThen fun ctl s =>
    (memRead 0x50 s.cfg.rm.stat s).andThen fun v s =>
    .ok (.bool (interruptFlag s.cfg.rm ctl[0] v[0])) s) s

/-- RD_PXINT (R191). -/
def execRdPxint (s : State) : Host.Outcome State Fault Refusal :=
  perform (fun s =>
    (memRead 0x51 s.cfg.rm.pxfBase s).andThen fun b s =>
    .ok (.flags (decodePixelFlags b)) s) s

/-- RD_OVF (R192). -/
def execRdOvf (s : State) : Host.Outcome State Fault Refusal :=
  perform (fun s =>
    (memRead 0x52 s.cfg.rm.stat s).andThen fun v s =>
    .ok (.bool (getBit v[0] s.cfg.rm.ovfBit)) s) s

/-- RST_INT: a plain write of its pattern (R193). -/
def execRstInt (s : State) : Host.Outcome State Fault Refusal :=
  perform (fun s => nothing (memWrite 0x53 s.cfg.rm.rstIntPat.1 #v[s.cfg.rm.rstIntPat.2] s)) s

/-- RST_OVF (R194). -/
def execRstOvf (s : State) : Host.Outcome State Fault Refusal :=
  perform (fun s => nothing (memWrite 0x54 s.cfg.rm.rstOvfPat.1 #v[s.cfg.rm.rstOvfPat.2] s)) s

/-- RST_FLAGS (R195). -/
def execRstFlags (s : State) : Host.Outcome State Fault Refusal :=
  perform (fun s => nothing (memWrite 0x55 s.cfg.rm.rstAllPat.1 #v[s.cfg.rm.rstAllPat.2] s)) s

end Sys2Proof.Machine
end

