-- ==== Sys2Proof/Machine/TemperatureCodec.lean ====
section
/-! DEFINITION. Format CT: temperature fields and the per-pixel flag table (spec/40_codec.md R104 to R118). -/

namespace Sys2Proof.Machine

/-- DECT.PIX (R104). -/
def execDectPix (b : Pair) (s : State) : Host.Outcome State Fault Refusal :=
  perform (fun s => .ok (.temp (decodeTemperature b .pixel)) s) s

/-- DECT.DEV (R105). -/
def execDectDev (b : Pair) (s : State) : Host.Outcome State Fault Refusal :=
  perform (fun s => .ok (.temp (decodeTemperature b .device)) s) s

/-- DECT.HYS (R106). -/
def execDectHys (b : Pair) (s : State) : Host.Outcome State Fault Refusal :=
  perform (fun s => .ok (.temp (decodeTemperature b .hyst)) s) s

/-- ENCT.PIX (R111). -/
def execEnctPix (t : TempIn) (s : State) : Host.Outcome State Fault Refusal :=
  perform (fun s => (encodeOrRaise t .pixel none s).andThen fun b s => .ok (.pair b) s) s

/-- ENCT.DEV (R112). -/
def execEnctDev (t : TempIn) (s : State) : Host.Outcome State Fault Refusal :=
  perform (fun s => (encodeOrRaise t .device none s).andThen fun b s => .ok (.pair b) s) s

/-- ENCT.HYS (R113). -/
def execEnctHys (t : TempIn) (s : State) : Host.Outcome State Fault Refusal :=
  perform (fun s => (encodeOrRaise t .hyst none s).andThen fun b s => .ok (.pair b) s) s

/-- DECPF (R118). -/
def execDecpf (b : FlagBytes) (s : State) : Host.Outcome State Fault Refusal :=
  perform (fun s => .ok (.flags (decodePixelFlags b)) s) s

end Sys2Proof.Machine
end

