-- ==== Sys2Proof/Machine/Dispatch.lean ====
section
/-! DEFINITION. One arm per instruction. -/

namespace Sys2Proof.Machine

def exec (i : Instr) (s : State) : Host.Outcome State Fault Refusal :=
  match i with
  | .dectPix b => Sys2Proof.Machine.execDectPix b s
  | .dectDev b => Sys2Proof.Machine.execDectDev b s
  | .dectHys b => Sys2Proof.Machine.execDectHys b s
  | .enctPix t => Sys2Proof.Machine.execEnctPix t s
  | .enctDev t => Sys2Proof.Machine.execEnctDev t s
  | .enctHys t => Sys2Proof.Machine.execEnctHys t s
  | .decpf b => Sys2Proof.Machine.execDecpf b s
  | .deceFr v => Sys2Proof.Machine.execDeceFr v s
  | .deceMa v => Sys2Proof.Machine.execDeceMa v s
  | .deceDm v => Sys2Proof.Machine.execDeceDm v s
  | .deceIe v => Sys2Proof.Machine.execDeceIe v s
  | .deceIa v => Sys2Proof.Machine.execDeceIa v s
  | .parseFr str => Sys2Proof.Machine.execParseFr str s
  | .enceFr x old => Sys2Proof.Machine.execEnceFr x old s
  | .enceMa x old => Sys2Proof.Machine.execEnceMa x old s
  | .enceDm x => Sys2Proof.Machine.execEnceDm x s
  | .enceIe x old => Sys2Proof.Machine.execEnceIe x old s
  | .enceIa x old => Sys2Proof.Machine.execEnceIa x old s
  | .wake => Sys2Proof.Machine.execWake s
  | .sleep => Sys2Proof.Machine.execSleep s
  | .asleep => Sys2Proof.Machine.execAsleep s
  | .scopeEnter => Sys2Proof.Machine.execScopeEnter s
  | .scopeExit => Sys2Proof.Machine.execScopeExit s
  | .image => Sys2Proof.Machine.execImage s
  | .devtemp => Sys2Proof.Machine.execDevtemp s
  | .rdFr => Sys2Proof.Machine.execRdFr s
  | .wrFr x => Sys2Proof.Machine.execWrFr x s
  | .rdMa => Sys2Proof.Machine.execRdMa s
  | .wrMa x => Sys2Proof.Machine.execWrMa x s
  | .rdIcfg => Sys2Proof.Machine.execRdIcfg s
  | .wrIcfg c => Sys2Proof.Machine.execWrIcfg c s
  | .disInt => Sys2Proof.Machine.execDisInt s
  | .rdInt => Sys2Proof.Machine.execRdInt s
  | .rdPxint => Sys2Proof.Machine.execRdPxint s
  | .rdOvf => Sys2Proof.Machine.execRdOvf s
  | .rstInt => Sys2Proof.Machine.execRstInt s
  | .rstOvf => Sys2Proof.Machine.execRstOvf s
  | .rstFlags => Sys2Proof.Machine.execRstFlags s

end Sys2Proof.Machine
end

