-- ==== Sys2Proof/Machine/Agents.lean ====
section
/-! DEFINITION. The two agents of a step: the block, which performs the port's command to completion (spec/20_memory.md R58,
spec/30_encoding.md R70), and the environment, whose own step is a frame event (spec/20_memory.md R57). -/

namespace Sys2Proof.Machine

/-- The block's step: the port's command is taken and performed; a reserved code is refused with a status (R78, R214). With
nothing on the port the block waits (log 2). -/
def blockStep (s : State) : Host.Outcome State Fault Refusal :=
  match s.port with
  | [] => .next s
  | c :: rest =>
    match decode c with
    | .ok i => exec i (s.withPort rest)
    | .error (.reservedCode _) => .next (illegalCommand (s.withPort rest))
    | .error (.operandRecord op) => .refused (.operandRecord op)

/-- The environment's step at an idle port, when State lists no turn: a frame event, whatever it changes (R57; log 21). -/
def idleStep (s : State) : State :=
  (frameStep (Config.freeFrame s.env.count) s).withEnv { s.env with count := s.env.count + 1 }

/-- The next step is the environment's, with a command on the port or without. -/
def State.environmentMoves (s : State) : Bool :=
  match s.turns with
  | .frame _ :: _ => true
  | .block :: _ => false
  | [] => false

end Sys2Proof.Machine
end

