-- ==== Sys2Proof/Machine/Step.lean ====
section
/-! DEFINITION. One step: a frame event of the environment, or the command at the head of the port performed to completion
(spec/20_memory.md R57, R58, spec/30_encoding.md R70). -/

namespace Sys2Proof.Machine

/-- The agent whose turn is listed steps. When none is listed the block steps if the port carries a command, and otherwise
the environment (R57, R58; log 21). -/
def step (s : State) : Host.Outcome State Fault Refusal :=
  match s.turns with
  | .frame changes :: rest => .next (frameStep changes (s.withTurns rest))
  | .block :: rest => blockStep (s.withTurns rest)
  | [] =>
    match s.port with
    | [] => .next (idleStep s)
    | _ :: _ => blockStep s

/-- `s` with the opcode-table word's command placed first on the port and the next turn the block's (log 4). A word the table
cannot hold changes nothing. -/
def State.withFetchWord (s : State) (nbits w : Nat) : State :=
  match tableCommand nbits w with
  | some c => (s.withPort (c :: s.port)).withTurns (.block :: s.turns)
  | none => s

end Sys2Proof.Machine
end

