-- ==== Sys2Proof/Machine/HostProgram.lean ====
section
/-! DEFINITION. The host's program constructs over the step: the pseudo-instruction `WR_FR "s"` (spec/30_encoding.md R93),
the structured scope (spec/41_mode_fsm.md R148), and a whole program (spec/70_reset_and_hazards.md R252). -/

namespace Sys2Proof.Machine

/-- The status of the last command; OK before the first. -/
def State.lastStatus (s : State) : Status :=
  match s.reply with
  | some r => r.status
  | none => .ok

/-- The steps up to and with the block's next one: the environment's turns that come first are taken (R57). -/
def stepsToBlock : List Turn → State → Host.Outcome State Fault Refusal
  | .frame _ :: rest, s =>
    match step s with
    | .next t => stepsToBlock rest t
    | .fault f => .fault f
    | .refused r => .refused r
  | .block :: _, s => step s
  | [], s => step s

/-- `perform(cmd)`: the host issues one command on a port that carries nothing else, waits until the block has performed it,
and has its status; none when the model gives the command no meaning. -/
def issue (c : Command) (s : State) : Option (State × Status) :=
  match stepsToBlock s.turns (s.withPort [c]) with
  | .next t => some (t, t.lastStatus)
  | .fault _ => none
  | .refused _ => none

/-- `WR_FR "s"`: PARSE.FR, and WR_FR only if it returns OK; the status is the last command's (R93, R213). -/
def issueWrFrString (str : String) (s : State) : Option (State × Status) :=
  match issue (encode (.parseFr str)) s with
  | some (s1, .ok) =>
    match parseFrameRate str with
    | some x => issue (encode (.wrFr x)) s1
    | none => none
  | other => other

/-- The other spelling of DIS_INT (R93). -/
def disableInterrupts : Command := encode .disInt

/-- A scope's body: in order, the first non-OK status ends it (R148). A nested scope is refused before it runs. -/
def runBody : HostProgram → State → Option (State × Status)
  | .done, s => some (s, .ok)
  | .command c rest, s =>
    match issue c s with
    | some (s1, .ok) => runBody rest s1
    | other => other
  | .wrFrString str rest, s =>
    match issueWrFrString str s with
    | some (s1, .ok) => runBody rest s1
    | other => other
  | .scope _ _, _ => none

/-- What the host has from one item of its program. -/
inductive Report
  | command (st : Status)
  /-- SCOPE_ENTER was not OK: the body did not run and no exit was attempted. -/
  | notEntered (st : Status)
  /-- Body and exit status, both reported. -/
  | scope (body exit : Status)
deriving DecidableEq, Repr

/-- The status of an item: of a scope, the body's when it is not OK, else the exit's (R148). -/
def Report.status : Report → Status
  | .command st => st
  | .notEntered st => st
  | .scope body exit => if body = .ok then exit else body

/-- `SCOPE { body }` (R148). -/
def runScope (body : HostProgram) (s : State) : Option (State × Report) :=
  match issue (encode .scopeEnter) s with
  | none => none
  | some (s1, .ok) =>
    match runBody body s1 with
    | none => none
    | some (s2, stBody) =>
      match issue (encode .scopeExit) s2 with
      | none => none
      | some (s3, stExit) => some (s3, .scope stBody stExit)
  | some (s1, st) => some (s1, .notEntered st)

/-- The items of a program in order; outside a scope a status ends nothing (R222). -/
def runItems : HostProgram → State → Option (State × List Report)
  | .done, s => some (s, [])
  | .command c rest, s =>
    match issue c s with
    | none => none
    | some (s1, st) => (runItems rest s1).map fun r => (r.1, .command st :: r.2)
  | .wrFrString str rest, s =>
    match issueWrFrString str s with
    | none => none
    | some (s1, st) => (runItems rest s1).map fun r => (r.1, .command st :: r.2)
  | .scope body rest, s =>
    match runScope body s with
    | none => none
    | some (s1, rep) => (runItems rest s1).map fun r => (r.1, rep :: r.2)

/-- A host program; an ill-formed one is refused before it runs (R148). -/
def runProgram (p : HostProgram) (s : State) : Option (State × List Report) :=
  if p.wellFormed then runItems p s else none

end Sys2Proof.Machine
end

