-- ==== Sys2Proof/Safety.lean ====
section
/-! DEFINITION. What counts as a safe run, in the terms claims use (spec/10_state.md R23, R24;
spec/70_reset_and_hazards.md R252), and the environment's answers a claim may take as a premise (spec/20_memory.md R45). -/

namespace Sys2Proof.Machine

/-- Neither sticky bit is set: the run so far is one the source gives meaning to (R23, R24, R217). -/
abbrev State.clean (s : State) : Prop := s.refused = false ∧ s.gateViolation = false

/-- A run ends well: every status OK, no sticky bit set, no scope open (R252). -/
abbrev EndsWell (r : State × List Report) : Prop :=
  (∀ rep ∈ r.2, rep.status = .ok) ∧ r.1.clean ∧ r.1.scopeActive = false

/-- The environment after `k` transfers. -/
def Env.after : Nat → Env → Env
  | 0, e => e
  | k + 1, e => Env.after k e.advance

/-- Each of the next `k` transfers succeeds (R45: a premise of any claim that needs it). -/
abbrev Env.succeeds (k : Nat) (e : Env) : Prop := ∀ j < k, (e.after j).answer.error = none

/-- No frame event happens before any of the next `k` transfers (R57). -/
abbrev Env.noFrames (k : Nat) (e : Env) : Prop := ∀ j < k, (e.after j).answer.frames = []

end Sys2Proof.Machine
end

