-- ==== Sys2Proof/Certificates/Slice0/Obligations.lean ====
section
/-! DEFINITION. The statements for the provers. -/

namespace Sys2Proof.Claims

open Sys2Proof.Machine

/-! ### Words the statements share, written from the rules and not from the model -/

/-- The answer of a command that completes. -/
abbrev okReply (v : Value) : Option Reply := some ⟨.ok, some v, .none⟩

/-- The answer of a command that ends with an error or a refusal: no result. -/
abbrev endReply (st : Status) (info : Info) : Option Reply := some ⟨st, none, info⟩

/-- Nothing but the answer: no call on the bus, every other field as before. -/
abbrev answers (s : State) (r : Option Reply) : State := (s.withBus []).withReply r

/-- A PIXEL pair's degrees: the low 12 bits as two's complement, quarters of a degree (R86, R100, R101, R103). -/
def pixelDegrees (l h : Byte) : Rat :=
  let n : Int := l.toNat + 256 * (h.toNat % 16)
  ((if n < 2048 then n else n - 4096 : Int) : Rat) / 4

/-- A DEVICE pair's degrees: the low 11 bits as two's complement, sixteenths (R86, R100, R101, R103). -/
def deviceDegrees (l h : Byte) : Rat :=
  let n : Int := l.toNat + 256 * (h.toNat % 8)
  ((if n < 1024 then n else n - 2048 : Int) : Rat) / 16

/-- A HYST pair's degrees: the low 12 bits unsigned, quarters (R86, R100, R102, R103). -/
def hystDegrees (l h : Byte) : Rat := ((l.toNat + 256 * (h.toNat % 16) : Nat) : Rat) / 4

/-- `n` is a nearest integer to `q`, and the even one when two are nearest (R11). -/
abbrev NearestEven (q : Rat) (n : Int) : Prop := |q - n| ≤ 1 / 2 ∧ (|q - n| = 1 / 2 → n % 2 = 0)

/-- A pair as a number, low byte first (R41). -/
abbrev pairNat (b : Pair) : Nat := b[0].toNat + 256 * b[1].toNat

/-- Every register outside `stored` reads as before, but that the frame events before the `k` transfers may have changed a
sensor-driven one (R57). -/
abbrev SameBytesBut (s t : State) (k : Nat) (stored : Nat → Prop) : Prop :=
  ∀ a, ¬ stored a → (isSensorDriven s.cfg.rm a = false ∨ s.env.noFrames k) → t.mem.byteAt a = s.mem.byteAt a

/-- A BusPort read of `n` bytes from `a` that returned `data`. -/
abbrev readCall (s : State) (a n : Nat) (data : List Byte) : BusCall := ⟨s.cfg.devAddr, .read, a, n, data, none⟩

/-- A BusPort write of `data` from `a` that succeeded. -/
abbrev writeCall (s : State) (a n : Nat) (data : List Byte) : BusCall := ⟨s.cfg.devAddr, .write, a, n, data, none⟩

/-- `s` with what a command of `k` transfers changes besides the block's four bits: the register space, the environment's
place, the calls and the answer. -/
abbrev afterTransfers (s : State) (k : Nat) (mem : Memory) (bus : List BusCall) (r : Option Reply) : State :=
  (((s.withMem mem).withEnv (s.env.after k)).withBus bus).withReply r

/-- The gate lets a command on: Awake, or the policy is ISSUE (R140). -/
abbrev gatePasses (s : State) : Prop := s.mode = .awake ∨ s.cfg.policy = .issue

/-- `gate_violation` once the gate has let an Awake-only command on (R141). -/
abbrev gateAfter (s : State) : Bool := s.gateViolation || s.mode == .asleep

/-- An interrupt configuration that passes validation: no temperature is NaN (R212). -/
abbrev validLimits (c : ICfgIn) : Prop := c.upper ≠ .nan ∧ c.lower ≠ .nan ∧ c.hysteresis ≠ .nan

/-- An Awake-only command that reaches the gate: IMAGE, DEVTEMP, DIS_INT, and WR_ICFG with valid operands (R140, R218). -/
def ReachesGate : Instr → Prop
  | .image => True
  | .devtemp => True
  | .disInt => True
  | .wrIcfg c => validLimits c
  | _ => False

/-- Bit `p` of `new` is `x`, and every other bit of it is as `old` has it. -/
abbrev BitReplaced (old new : Byte) (p : Fin 8) (x : Bool) : Prop :=
  ∀ j : Fin 8, new.getLsbD j.val = if j = p then x else old.getLsbD j.val

/-- The transfers a command issues when every one succeeds: direction, register address, bytes (R47, R143 to R195). -/
def transfersOf (m : RegMap) : Instr → List (Dir × Nat × Nat)
  | .wake | .sleep | .scopeEnter | .scopeExit => [(.write, m.pctl.val, 1)]
  | .image => [(.read, m.pixBase.val, 128)]
  | .devtemp => [(.read, m.tth.val, 2)]
  | .rdFr => [(.read, m.fpsc.val, 1)]
  | .wrFr _ => [(.read, m.fpsc.val, 1), (.write, m.fpsc.val, 1)]
  | .rdMa => [(.read, m.ave.val, 1)]
  | .wrMa _ => [(.read, m.ave.val, 1), (.write, m.ave.val, 1)]
  | .rdIcfg => [(.read, m.intc.val, 1), (.read, m.inth.val, 2), (.read, m.intl.val, 2), (.read, m.ihys.val, 2)]
  | .wrIcfg _ => [(.read, m.intc.val, 1), (.write, m.inth.val, 2), (.write, m.intl.val, 2), (.write, m.ihys.val, 2),
      (.write, m.intc.val, 1)]
  | .disInt => [(.read, m.intc.val, 1), (.write, m.intc.val, 1)]
  | .rdInt => [(.read, m.intc.val, 1), (.read, m.stat.val, 1)]
  | .rdPxint => [(.read, m.pxfBase.val, 8)]
  | .rdOvf => [(.read, m.stat.val, 1)]
  | .rstInt => [(.write, m.rstIntPat.1.val, 1)]
  | .rstOvf => [(.write, m.rstOvfPat.1.val, 1)]
  | .rstFlags => [(.write, m.rstAllPat.1.val, 1)]
  | _ => []

/-- The result shapes of R79. -/
inductive ResultShape
  | nothing
  | temp
  | pair
  | byte
  | bool
  | rate
  | modeRead
  | flags
  | image
  | icfg
deriving DecidableEq, Repr

/-- The shape of a result. -/
def shapeOf : Value → ResultShape
  | .nothing => .nothing
  | .temp _ => .temp
  | .pair _ => .pair
  | .byte _ => .byte
  | .bool _ => .bool
  | .rate _ => .rate
  | .modeRead _ => .modeRead
  | .flags _ => .flags
  | .image _ => .image
  | .icfg _ => .icfg

/-- The result shape of each command (R79). -/
def resultShape : Instr → ResultShape
  | .dectPix _ | .dectDev _ | .dectHys _ | .devtemp => .temp
  | .enctPix _ | .enctDev _ | .enctHys _ => .pair
  | .decpf _ | .rdPxint => .flags
  | .deceFr _ | .parseFr _ | .rdFr => .rate
  | .deceMa _ | .deceIe _ | .deceIa _ | .asleep | .rdMa | .rdInt | .rdOvf => .bool
  | .deceDm _ => .modeRead
  | .enceFr _ _ | .enceMa _ _ | .enceIe _ _ | .enceIa _ _ | .enceDm _ => .byte
  | .image => .image
  | .rdIcfg => .icfg
  | .wake | .sleep | .scopeEnter | .scopeExit | .wrFr _ | .wrMa _ | .wrIcfg _ | .disInt | .rstInt | .rstOvf
  | .rstFlags => .nothing

/-- The refusals among the status codes (R210). -/
abbrev isRefusal (st : Status) : Prop :=
  st = .illegalCommand ∨ st = .nestedScope ∨ st = .noScope ∨ st = .gateRefused

/-- The machine's invariant: the register map is well formed, the register space is in canonical form, an awake sensor's
PCTL holds the awake encoding, and the last answer has a result exactly when its status is OK and leaves the sticky mark
when its status is a refusal. -/
structure Inv (s : State) : Prop where
  map : s.cfg.rm.WellFormed
  mem : s.mem.wf = true
  power : s.power = .awake → s.mem.byteAt s.cfg.rm.pctl.val = s.cfg.rm.pctlAwake
  reply : ∀ r, s.reply = some r → (r.status = .ok ↔ r.result.isSome) ∧ (isRefusal r.status → s.refused = true)

/-- A scope's body without a SLEEP command. -/
def noSleep : HostProgram → Prop
  | .done => True
  | .command c rest => c.op ≠ 0x21#8 ∧ noSleep rest
  | .wrFrString _ rest => noSleep rest
  | .scope _ rest => noSleep rest

end Sys2Proof.Claims

open Sys2Proof Sys2Proof.Machine Sys2Proof.Claims

/-! ### Coding -/

/-- Decoding an instruction's command gives the instruction back with every operand, and a command that decodes is the one
command of its instruction (R70 to R79). -/
def Obligations.DecodeAndEncodeAgree : Prop :=
  (∀ i, decode (encode i) = .ok i) ∧ ∀ c i, decode c = .ok i → encode i = c

/-- A code is reserved exactly when its fields fit no format of R72 to R77: family 0 with fn = 11, prof = 11 or fn = 10 and
prof other than 00; family 1 with a sel without a meaning for its dir; families 2 to 5 past their last function; every other
family (R78). -/
def Obligations.ReservedCodesAreExactlyTheUnassigned : Prop :=
  ∀ (op : Byte) (r : OperandRecord),
    let family := op.toNat / 16
    let fn := op.toNat / 4 % 4
    let prof := op.toNat % 4
    let sel := op.toNat % 8
    let dir := op.toNat / 8 % 2
    let func := op.toNat % 16
    decode ⟨op, r⟩ = .error (.reservedCode op) ↔
      (family = 0 ∧ (fn = 3 ∨ prof = 3 ∨ (fn = 2 ∧ prof ≠ 0))) ∨
      (family = 1 ∧ ¬(sel ≤ 4 ∨ (sel = 7 ∧ dir = 0))) ∨
      (family = 2 ∧ 5 ≤ func) ∨ (family = 3 ∧ 2 ≤ func) ∨ (family = 4 ∧ 7 ≤ func) ∨ (family = 5 ∧ 6 ≤ func) ∨ 6 ≤ family

/-- A few codes written out from R72 to R77, one per family, decode to the commands they stand for. -/
def Obligations.WrittenCodesDecodeAsAssigned : Prop :=
  decode ⟨0b00000101, .temp .nan⟩ = .ok (.enctDev .nan) ∧
  decode ⟨0b00011100, .boolOld true 0x01⟩ = .ok (.enceIa true 0x01) ∧
  decode ⟨0b00100100, .none⟩ = .ok .scopeExit ∧
  decode ⟨0b00110001, .none⟩ = .ok .devtemp ∧
  decode ⟨0b01000011, .bool true⟩ = .ok (.wrMa true) ∧
  decode ⟨0b01010101, .none⟩ = .ok .rstFlags

/-! ### The step, construction, the invariant -/

/-- The block's step takes the command the port carries and performs the instruction it decodes to, on the state whose port
and turns have moved on and which is otherwise the same (R58, R70). The environment's step is a frame event: it changes the
register space and nothing else, before a command or at an idle port (R57; the order of turns is the model's: log 21). -/
def Obligations.StepPerformsTheDecodedCommand : Prop :=
  (∀ (s : State) (c : Command) (rest : List Command) (i : Instr), s.port = c :: rest → decode c = .ok i →
    s.environmentMoves = false → step s = exec i ((s.withPort rest).withTurns s.turns.tail)) ∧
  (∀ (s : State) (changes : List RegValue) (turns : List Turn), s.turns = .frame changes :: turns →
    step s = .next ((s.withMem (frameEvents s.cfg.rm changes s.mem)).withTurns turns)) ∧
  ∀ s : State, s.turns = [] → s.port = [] → ∃ changes : List RegValue,
    step s = .next ((s.withMem (frameEvents s.cfg.rm changes s.mem)).withEnv { s.env with count := s.env.count + 1 })

/-- A reserved code at the block's turn: no transfer, ILLEGAL_COMMAND, the sticky mark, and nothing else changes (R78, R214). -/
def Obligations.ReservedCodeIsRefusedWithoutTransfer : Prop :=
  ∀ (s : State) (c : Command) (rest : List Command), s.port = c :: rest → decode c = .error (.reservedCode c.op) →
    s.environmentMoves = false → step s = .next (((((s.withPort rest).withTurns s.turns.tail).withBus []).withRefused
      true).withReply (endReply .illegalCommand .none))

/-- Construction sets the four block bits, keeps the configuration it is given and issues no transfer (R31, R240); the
sensor's power state is unknown (R242; the model's three values: log 7), and every sensor register is a free value, in the
model's form of one uninterpreted constant per address (R31, R242; log 6). -/
def Obligations.ConstructionSetsTheBlockBits : Prop :=
  ∀ cfg : Cfg, (State.construct cfg).mode = .asleep ∧ (State.construct cfg).scopeActive = false ∧
    (State.construct cfg).gateViolation = false ∧ (State.construct cfg).refused = false ∧
    (State.construct cfg).cfg = cfg ∧ (State.construct cfg).bus = [] ∧ (State.construct cfg).power = .unknown ∧
    ∀ a, (State.construct cfg).mem.byteAt a = Config.powerOnByte a

/-- No step changes the configuration (R26). -/
def Obligations.ConfigurationNeverChanges : Prop :=
  ∀ s t : State, step s = .next t → t.cfg = s.cfg

/-- Every step keeps the invariant, from every state that has it. -/
def Obligations.StepKeepsTheInvariant : Prop :=
  ∀ s t : State, Inv s → step s = .next t → Inv t

/-- A construction with a well-formed register map has the invariant, and the reset state is one. -/
def Obligations.ConstructionMeetsTheInvariant : Prop :=
  (∀ cfg : Cfg, cfg.rm.WellFormed → Inv (State.construct cfg)) ∧ Inv State.reset

/-! ### Whole-machine rules -/

/-- Every command answers: a result of the command's shape exactly when the status is OK (R79, R210). -/
def Obligations.EveryCommandAnswersWithItsShape : Prop :=
  ∀ (i : Instr) (s : State), ∃ t r, exec i s = .next t ∧ t.reply = some r ∧
    (r.status = .ok ↔ ∃ v, r.result = some v) ∧ ∀ v, r.result = some v → shapeOf v = resultShape i

/-- The transition table of `mode`: only WAKE and SCOPE_ENTER make it AWAKE and only SLEEP and SCOPE_EXIT make it ASLEEP,
when they end OK; every other command, and every other ending, leaves it (R150, R151). -/
def Obligations.ModeFollowsTheTransitionTable : Prop :=
  ∀ (i : Instr) (s t : State), exec i s = .next t →
    ((i = .wake ∨ i = .scopeEnter) → t.mode = if t.lastStatus = .ok then .awake else s.mode) ∧
    ((i = .sleep ∨ i = .scopeExit) → t.mode = if t.lastStatus = .ok then .asleep else s.mode) ∧
    (i ≠ .wake → i ≠ .scopeEnter → i ≠ .sleep → i ≠ .scopeExit → t.mode = s.mode)

/-- `scope_active` is set by a SCOPE_ENTER that ends OK, cleared by a SCOPE_EXIT that is not refused, and left by every
other command and ending (R22). -/
def Obligations.ScopeBitFollowsEnterAndExit : Prop :=
  ∀ (i : Instr) (s t : State), exec i s = .next t →
    (i = .scopeEnter → t.scopeActive = (s.scopeActive || t.lastStatus == .ok)) ∧
    (i = .scopeExit → t.scopeActive = false) ∧
    (i ≠ .scopeEnter → i ≠ .scopeExit → t.scopeActive = s.scopeActive)

/-- The fault bit is set after a command exactly when it was set before or an Awake-only command reached the gate while
Asleep under ISSUE; nothing clears it (R23, R141, R217). -/
def Obligations.GateViolationIsStickyAndExact : Prop :=
  ∀ (i : Instr) (s t : State), exec i s = .next t →
    (t.gateViolation = true ↔
      s.gateViolation = true ∨ (ReachesGate i ∧ s.mode = .asleep ∧ s.cfg.policy = .issue))

/-- The refusal mark is set after the block's step exactly when it was set before or the step's command ended with a refusal;
a step that takes no command leaves it; nothing clears it (R24). -/
def Obligations.RefusedIsStickyAndExact : Prop :=
  ∀ (s t : State), step s = .next t →
    (s.port ≠ [] → s.environmentMoves = false → (t.refused = true ↔ s.refused = true ∨ isRefusal t.lastStatus)) ∧
    (s.port = [] ∨ s.environmentMoves = true → t.refused = s.refused)

/-- The calls a command makes are, in order, the ones its rule lists (R143 to R147, R160, R161, R170 to R178, R190 to R195),
of the widths and directions of R47, up to the first that fails (R211, R220); all of them when it ends OK; and each is to
the block's device (R42, R43, R58). -/
def Obligations.CommandsIssueExactlyTheirTransfers : Prop :=
  ∀ (i : Instr) (s t : State), exec i s = .next t →
    (t.bus.map fun c => (c.dir, c.addr, c.len)) <+: transfersOf s.cfg.rm i ∧
    (t.lastStatus = .ok → (t.bus.map fun c => (c.dir, c.addr, c.len)) = transfersOf s.cfg.rm i) ∧
    ∀ c ∈ t.bus, c.dev = s.cfg.devAddr

/-- TRANSFER_ERROR: the last call of the command failed and no other, and the answer records the command code, the address
and direction of that call and the BusPort's own error; with any other status no call failed (R211). -/
def Obligations.TransferErrorRecordsTheFailingCall : Prop :=
  ∀ (i : Instr) (s t : State), exec i s = .next t →
    (t.lastStatus = .transferError → ∃ done c e, t.bus = done ++ [c] ∧ c.error = some e ∧ (∀ d ∈ done, d.error = none) ∧
      t.reply = endReply .transferError (.transfer (encode i).op c.addr c.dir e)) ∧
    (t.lastStatus ≠ .transferError → ∀ c ∈ t.bus, c.error = none)

/-- A codec command is a function of its operands and `Cfg` alone, and changes nothing but the answer (R131). -/
def Obligations.CodecCommandsArePure : Prop :=
  ∀ (i : Instr) (s1 s2 : State), (encode i).op.toNat < 0x20 → s1.cfg = s2.cfg →
    ∃ r, exec i s1 = .next (answers s1 (some r)) ∧ exec i s2 = .next (answers s2 (some r))

/-- After an error or a refusal the next command runs as it would have: a command's effect does not depend on the sticky
bits, the last answer or the last calls (R222). -/
def Obligations.StickyBitsAndLastAnswerDoNotMatter : Prop :=
  ∀ (i : Instr) (s t : State) (r : Option Reply) (b : List BusCall), exec i s = .next t →
    exec i (((s.withReply r).withBus b).withRefused true) = .next (t.withRefused true) ∧
    exec i (((s.withReply r).withBus b).withGate true) = .next (t.withGate true)

/-! ### Temperature codec -/

/-- DECT.PIX (R104). -/
def Obligations.DectPixIsSignedQuarterDegrees : Prop :=
  ∀ (l h : Byte) (s : State), decode ⟨0x00, .pair #v[l, h]⟩ = .ok (.dectPix #v[l, h]) ∧
    exec (.dectPix #v[l, h]) s = .next (answers s (okReply (.temp (pixelDegrees l h))))

/-- DECT.DEV (R105). -/
def Obligations.DectDevIsSignedSixteenthDegrees : Prop :=
  ∀ (l h : Byte) (s : State), decode ⟨0x01, .pair #v[l, h]⟩ = .ok (.dectDev #v[l, h]) ∧
    exec (.dectDev #v[l, h]) s = .next (answers s (okReply (.temp (deviceDegrees l h))))

/-- DECT.HYS (R106). -/
def Obligations.DectHysIsUnsignedQuarterDegrees : Prop :=
  ∀ (l h : Byte) (s : State), decode ⟨0x02, .pair #v[l, h]⟩ = .ok (.dectHys #v[l, h]) ∧
    exec (.dectHys #v[l, h]) s = .next (answers s (okReply (.temp (hystDegrees l h))))

/-- ENCT.PIX of a number: the nearest quarter of a degree, half to even, clamped to -2048..2047, as a 12-bit pattern with
the unused bits 0, low byte first; of an infinity: the end of the range (R108 to R111). -/
def Obligations.EnctPixRoundsClampsAndPacks : Prop :=
  ∀ s : State,
    (∀ q : Rat, ∃ (n : Int) (b : Pair), NearestEven (q * 4) n ∧
      (pairNat b : Int) = max (-2048) (min n 2047) % 4096 ∧
      exec (.enctPix (.finite q)) s = .next (answers s (okReply (.pair b)))) ∧
    exec (.enctPix .posInf) s = .next (answers s (okReply (.pair #v[0xFF, 0x07]))) ∧
    exec (.enctPix .negInf) s = .next (answers s (okReply (.pair #v[0x00, 0x08])))

/-- ENCT.DEV: sixteenths of a degree, -1024..1023, 11 bits (R108 to R110, R112). -/
def Obligations.EnctDevRoundsClampsAndPacks : Prop :=
  ∀ s : State,
    (∀ q : Rat, ∃ (n : Int) (b : Pair), NearestEven (q * 16) n ∧
      (pairNat b : Int) = max (-1024) (min n 1023) % 2048 ∧
      exec (.enctDev (.finite q)) s = .next (answers s (okReply (.pair b)))) ∧
    exec (.enctDev .posInf) s = .next (answers s (okReply (.pair #v[0xFF, 0x03]))) ∧
    exec (.enctDev .negInf) s = .next (answers s (okReply (.pair #v[0x00, 0x04])))

/-- ENCT.HYS: quarters of a degree, 0..4095, 12 bits unsigned: never wraps below zero (R108 to R110, R113). -/
def Obligations.EnctHysRoundsClampsAndPacks : Prop :=
  ∀ s : State,
    (∀ q : Rat, ∃ (n : Int) (b : Pair), NearestEven (q * 4) n ∧
      (pairNat b : Int) = max 0 (min n 4095) ∧
      exec (.enctHys (.finite q)) s = .next (answers s (okReply (.pair b)))) ∧
    exec (.enctHys .posInf) s = .next (answers s (okReply (.pair #v[0xFF, 0x0F]))) ∧
    exec (.enctHys .negInf) s = .next (answers s (okReply (.pair #v[0x00, 0x00])))

/-- NaN: `ValueOutOfRange` with the profile, no bytes, nothing else changed (R107, R212). -/
def Obligations.EncodingNaNIsOutOfRange : Prop :=
  ∀ s : State,
    exec (.enctPix .nan) s = .next (answers s (endReply .valueOutOfRange (.range .pixel none))) ∧
    exec (.enctDev .nan) s = .next (answers s (endReply .valueOutOfRange (.range .device none))) ∧
    exec (.enctHys .nan) s = .next (answers s (endReply .valueOutOfRange (.range .hyst none)))

/-- Decode after encode is within half an LSB, and exact at a multiple of the LSB, over the profile's range (R114). -/
def Obligations.DecodeAfterEncodeIsWithinHalfLsb : Prop :=
  ∀ (p : Profile) (q : Rat), lo p * lsb p ≤ q → q ≤ hi p * lsb p →
    ∃ b, encodeTemperature (.finite q) p = some b ∧ |decodeTemperature b p - q| ≤ lsb p / 2 ∧
      ((∃ n : Int, q = n * lsb p) → decodeTemperature b p = q)

/-- Encode after decode gives the pair back with its unused bits cleared (R115). -/
def Obligations.EncodeAfterDecodeClearsUnusedBits : Prop :=
  ∀ (l h : Byte) (p : Profile),
    encodeTemperature (.finite (decodeTemperature #v[l, h] p)) p =
      some #v[l, h &&& (match p with | .pixel => 0x0F | .hyst => 0x0F | .device => 0x07)]

/-- A number that rounds below zero decodes after encoding to a negative value (R116). -/
def Obligations.NegativeTemperaturesStayNegative : Prop :=
  ∀ (p : Profile) (q : Rat), (p = .pixel ∨ p = .device) → roundHalfEven (q / lsb p) ≤ -1 →
    ∃ b, encodeTemperature (.finite q) p = some b ∧
      decodeTemperature b p = (clamp (roundHalfEven (q / lsb p)) (lo p) (hi p) : Rat) * lsb p ∧ decodeTemperature b p < 0

/-- DECPF: row r, column c is bit c of byte r (R118, R89). -/
def Obligations.DecpfUnpacksRowByByte : Prop :=
  ∀ (b : FlagBytes) (s : State), decode ⟨0x08, .flagBytes b⟩ = .ok (.decpf b) ∧
    ∃ g : Grid Bool, (∀ r c : Fin 8, g[r][c] = b[r].getLsbD c.val) ∧
      exec (.decpf b) s = .next (answers s (okReply (.flags g)))

/-! ### Enum codecs -/

/-- DECE.FR, DECE.MA, DECE.IE, DECE.IA read their bit and ignore the others; DECE.DM compares the whole byte (R120, R122,
R124, R126, R128). -/
def Obligations.EnumDecodersReadTheirBit : Prop :=
  ∀ (v : Byte) (s : State),
    decode ⟨0x10, .byte v⟩ = .ok (.deceFr v) ∧ decode ⟨0x11, .byte v⟩ = .ok (.deceMa v) ∧
    decode ⟨0x12, .byte v⟩ = .ok (.deceDm v) ∧ decode ⟨0x13, .byte v⟩ = .ok (.deceIe v) ∧
    decode ⟨0x14, .byte v⟩ = .ok (.deceIa v) ∧
    exec (.deceFr v) s = .next (answers s (okReply (.rate
      (if v.getLsbD s.cfg.rm.fpsBit.val = s.cfg.rm.fpsLowVal then .low else .high)))) ∧
    exec (.deceMa v) s = .next (answers s (okReply (.bool (v.getLsbD s.cfg.rm.maBit.val)))) ∧
    exec (.deceIe v) s = .next (answers s (okReply (.bool (v.getLsbD s.cfg.rm.intenBit.val)))) ∧
    exec (.deceIa v) s = .next (answers s (okReply (.bool (v.getLsbD s.cfg.rm.intmodBit.val)))) ∧
    exec (.deceDm v) s = .next (answers s (okReply (.modeRead
      (if v = s.cfg.rm.pctlAwake then .awake else if v = s.cfg.rm.pctlSleep then .asleep else .unknown))))

/-- ENCE.FR, ENCE.MA, ENCE.IE, ENCE.IA replace their bit and pass every other bit of `old` through; ENCE.DM gives the whole
byte (R121, R123, R125, R127, R129). -/
def Obligations.EnumEncodersReplaceTheirBit : Prop :=
  ∀ (f : FrameRate) (x : Bool) (d : Mode) (old : Byte) (s : State),
    decode ⟨0x18, .rateOld f old⟩ = .ok (.enceFr f old) ∧ decode ⟨0x19, .boolOld x old⟩ = .ok (.enceMa x old) ∧
    decode ⟨0x1A, .mode d⟩ = .ok (.enceDm d) ∧ decode ⟨0x1B, .boolOld x old⟩ = .ok (.enceIe x old) ∧
    decode ⟨0x1C, .boolOld x old⟩ = .ok (.enceIa x old) ∧
    (∃ w, BitReplaced old w s.cfg.rm.fpsBit (if f = .low then s.cfg.rm.fpsLowVal else !s.cfg.rm.fpsLowVal) ∧
      exec (.enceFr f old) s = .next (answers s (okReply (.byte w)))) ∧
    (∃ w, BitReplaced old w s.cfg.rm.maBit x ∧ exec (.enceMa x old) s = .next (answers s (okReply (.byte w)))) ∧
    (∃ w, BitReplaced old w s.cfg.rm.intenBit x ∧ exec (.enceIe x old) s = .next (answers s (okReply (.byte w)))) ∧
    (∃ w, BitReplaced old w s.cfg.rm.intmodBit x ∧ exec (.enceIa x old) s = .next (answers s (okReply (.byte w)))) ∧
    exec (.enceDm d) s = .next (answers s (okReply (.byte
      (if d = .awake then s.cfg.rm.pctlAwake else s.cfg.rm.pctlSleep))))

/-- PARSE.FR accepts "low" and "high" exactly, and raises `InvalidEnumValue` with the string for every other (R130, R213). -/
def Obligations.ParseFrAcceptsExactlyTwoStrings : Prop :=
  ∀ (str : String) (s : State), decode ⟨0x17, .str str⟩ = .ok (.parseFr str) ∧
    exec (.parseFr str) s = .next (answers s
      (if str = "low" then okReply (.rate .low) else if str = "high" then okReply (.rate .high)
       else endReply .invalidEnumValue (.badEnum str)))

/-! ### Mode FSM -/

/-- WAKE: the awake encoding is written to PCTL, then `mode` is AWAKE; nothing else of the block changes (R143). -/
def Obligations.WakeWritesThenSetsMode : Prop :=
  ∀ s : State, s.env.answer.error = none → ∃ t, exec .wake s = .next t ∧
    t = ((afterTransfers s 1 t.mem [writeCall s s.cfg.rm.pctl.val 1 [s.cfg.rm.pctlAwake]] (okReply .nothing)).withMode
      .awake).withPower .awake ∧
    t.mem.byteAt s.cfg.rm.pctl.val = s.cfg.rm.pctlAwake ∧ SameBytesBut s t 1 (· = s.cfg.rm.pctl.val)

/-- SLEEP: the sleep encoding is written to PCTL, then `mode` is ASLEEP (R144). That PCTL then holds the byte also at a
sensor that was asleep or in an unknown state, and that its power state is then asleep, is the model's deduction (log 7):
R52 says it of an awake sensor, and R56 of the awake encoding. -/
def Obligations.SleepWritesThenSetsMode : Prop :=
  ∀ s : State, s.cfg.rm.powerCodesDiffer → s.env.answer.error = none → ∃ t, exec .sleep s = .next t ∧
    t = ((afterTransfers s 1 t.mem [writeCall s s.cfg.rm.pctl.val 1 [s.cfg.rm.pctlSleep]] (okReply .nothing)).withMode
      .asleep).withPower .asleep ∧
    t.mem.byteAt s.cfg.rm.pctl.val = s.cfg.rm.pctlSleep ∧ SameBytesBut s t 1 (· = s.cfg.rm.pctl.val)

/-- SCOPE_ENTER with no scope open: as WAKE, then `scope_active` (R146). -/
def Obligations.ScopeEnterWakesAndOpens : Prop :=
  ∀ s : State, s.scopeActive = false → s.env.answer.error = none → ∃ t, exec .scopeEnter s = .next t ∧
    t = (((afterTransfers s 1 t.mem [writeCall s s.cfg.rm.pctl.val 1 [s.cfg.rm.pctlAwake]] (okReply .nothing)).withMode
      .awake).withPower .awake).withScope true ∧
    t.mem.byteAt s.cfg.rm.pctl.val = s.cfg.rm.pctlAwake ∧ SameBytesBut s t 1 (· = s.cfg.rm.pctl.val)

/-- SCOPE_EXIT with a scope open: `scope_active` cleared, then as SLEEP (R147). That PCTL then holds the byte also at a
sensor that was asleep or in an unknown state, and that its power state is then asleep, is the model's deduction (log 7). -/
def Obligations.ScopeExitSleepsAndCloses : Prop :=
  ∀ s : State, s.cfg.rm.powerCodesDiffer → s.scopeActive = true → s.env.answer.error = none →
    ∃ t, exec .scopeExit s = .next t ∧
    t = (((afterTransfers s 1 t.mem [writeCall s s.cfg.rm.pctl.val 1 [s.cfg.rm.pctlSleep]] (okReply .nothing)).withMode
      .asleep).withPower .asleep).withScope false ∧
    t.mem.byteAt s.cfg.rm.pctl.val = s.cfg.rm.pctlSleep ∧ SameBytesBut s t 1 (· = s.cfg.rm.pctl.val)

/-- ASLEEP reports `mode = ASLEEP` with no transfer (R145). -/
def Obligations.AsleepReportsTheModeFlag : Prop :=
  ∀ s : State, decode ⟨0x22, .none⟩ = .ok .asleep ∧
    exec .asleep s = .next (answers s (okReply (.bool (decide (s.mode = .asleep)))))

/-- SCOPE_ENTER with a scope open and SCOPE_EXIT with none: no transfer, and nothing changes but the mark (R215). -/
def Obligations.UnmatchedScopeCommandsAreRefused : Prop :=
  ∀ s : State,
    (s.scopeActive = true → exec .scopeEnter s = .next ((answers s (endReply .nestedScope .none)).withRefused true)) ∧
    (s.scopeActive = false → exec .scopeExit s = .next ((answers s (endReply .noScope .none)).withRefused true))

/-- A WAKE, SLEEP, SCOPE_ENTER or SCOPE_EXIT whose write fails: `mode` keeps its value, the sensor's power state is unknown,
PCTL holds its old or its new byte, and SCOPE_EXIT's scope is closed all the same (R44, R143, R144, R146, R147, R211). -/
def Obligations.FailedPowerWriteKeepsMode : Prop :=
  ∀ (i : Instr) (s : State) (e : BusError),
    (i = .wake ∨ i = .sleep ∨ (i = .scopeEnter ∧ s.scopeActive = false) ∨ (i = .scopeExit ∧ s.scopeActive = true)) →
    s.env.answer.error = some e → s.cfg.rm.registersApart →
    ∃ t, exec i s = .next t ∧ t.mode = s.mode ∧ t.power = .unknown ∧
      t.scopeActive = (s.scopeActive && decide (i ≠ .scopeExit)) ∧
      t.gateViolation = s.gateViolation ∧ t.refused = s.refused ∧
      t.reply = endReply .transferError (.transfer (encode i).op s.cfg.rm.pctl.val .write e) ∧
      (t.mem.byteAt s.cfg.rm.pctl.val = s.mem.byteAt s.cfg.rm.pctl.val ∨
        t.mem.byteAt s.cfg.rm.pctl.val =
          if i = .wake ∨ i = .scopeEnter then s.cfg.rm.pctlAwake else s.cfg.rm.pctlSleep) ∧
      SameBytesBut s t 1 (· = s.cfg.rm.pctl.val)

/-! ### The gate -/

/-- Under ISSUE, an Awake-only command issued while Asleep sets the fault bit, and otherwise does what it does with `mode`
AWAKE (R141, R217). -/
def Obligations.GateIssueRecordsAndGoesOn : Prop :=
  ∀ (i : Instr) (s t : State), ReachesGate i → s.mode = .asleep → s.cfg.policy = .issue →
    exec i (s.withMode .awake) = .next t → exec i s = .next ((t.withMode .asleep).withGate true)

/-- Under REFUSE, it issues no transfer and is refused, with nothing changed but the mark (R142, R216). -/
def Obligations.GateRefuseIssuesNothing : Prop :=
  ∀ (i : Instr) (s : State), ReachesGate i → s.mode = .asleep → s.cfg.policy = .refuse →
    exec i s = .next ((answers s (endReply .gateRefused .none)).withRefused true)

/-! ### Samples -/

/-- IMAGE: one read of 128 bytes; row r, column c is the PIXEL value of bytes 16r + 2c and 16r + 2c + 1; under
ISSUE a read while Asleep sets the fault bit; no register is stored to (R140, R141, R160, R162). That an awake sensor's
bytes are those the registers hold after the frame events is the model's deduction (log 8): R53 calls them draws. -/
def Obligations.ImageDecodesThePixelTable : Prop :=
  ∀ s : State, gatePasses s → s.env.answer.error = none → ∃ (t : State) (b : Vector Byte 128) (g : Grid Rat),
    exec .image s = .next t ∧
    t = (afterTransfers s 1 t.mem [readCall s s.cfg.rm.pixBase.val 128 b.toList] (okReply (.image g))).withGate
      (gateAfter s) ∧
    (∀ r c : Fin 8, g[r][c] = pixelDegrees b[16 * r.val + 2 * c.val] b[16 * r.val + 2 * c.val + 1]) ∧
    (s.power = .awake → s.cfg.rm.registersApart → ∀ k : Fin 128, b[k] = t.mem.byteAt (s.cfg.rm.pixBase.val + k.val)) ∧
    SameBytesBut s t 1 fun _ => False

/-- DEVTEMP: one read of two bytes, decoded with the DEVICE profile; under ISSUE a read while Asleep sets the fault bit; no
register is stored to (R92, R140, R141, R161). That an awake sensor's bytes are those the registers hold after the frame
events is the model's deduction (log 8): R53 calls them draws. -/
def Obligations.DevtempDecodesTheDevicePair : Prop :=
  ∀ s : State, gatePasses s → s.env.answer.error = none → ∃ (t : State) (l h : Byte),
    exec .devtemp s = .next t ∧
    t = (afterTransfers s 1 t.mem [readCall s s.cfg.rm.tth.val 2 [l, h]] (okReply (.temp (deviceDegrees l h)))).withGate
      (gateAfter s) ∧
    (s.power = .awake → s.cfg.rm.registersApart →
      l = t.mem.byteAt s.cfg.rm.tth.val ∧ h = t.mem.byteAt (s.cfg.rm.tth.val + 1)) ∧
    SameBytesBut s t 1 fun _ => False

/-- A draw is any value: whatever 128 bytes there are, there is an answer of the environment at which an awake sensor
returns them to IMAGE (R48, R53, R57). And a frame event may come at any moment between two commands, after the last of a run
too, and set every sensor-driven register to any value, and changes no other register (R57). -/
def Obligations.ImageMayReturnAnyBytes : Prop :=
  (∀ (s : State) (v : Vector Byte 128), s.cfg.rm.registersApart → s.power = .awake → gatePasses s →
    ∃ (ans : BusAnswer) (t : State), exec .image (s.withEnv ⟨[ans], 0⟩) = .next t ∧
      t.bus = [readCall s s.cfg.rm.pixBase.val 128 v.toList]) ∧
  ∀ (s : State) (v : Fin 256 → Byte), ∃ (changes : List RegValue) (t : State),
    step (s.withTurns (.frame changes :: s.turns)) = .next t ∧
      (∀ a : Fin 256, t.mem.byteAt a.val = if isSensorDriven s.cfg.rm a.val then v a else s.mem.byteAt a.val) ∧
      t = s.withMem t.mem

/-- A sensor that is asleep or in an unknown state returns anything, from any register: whatever bytes there are, a read of
that many registers from any address can return them; and so can a configuration read and a status read (R56). -/
def Obligations.SleepingSensorMayReturnAnyByte : Prop :=
  (∀ (n : Nat) (op : Byte) (a : RegBase n) (s : State) (b : Vector Byte n), s.power ≠ .awake →
    ∃ (ans : BusAnswer) (t : State), memRead op a (s.withEnv ⟨[ans], 0⟩) = .ok b t ∧
      t.bus = s.bus ++ [readCall s a.val n b.toList] ∧ t.power = s.power) ∧
  ∀ (s : State) (v : Byte), s.power ≠ .awake →
    (∃ (ans : BusAnswer) (t : State), exec .rdFr (s.withEnv ⟨[ans], 0⟩) = .next t ∧
      t.bus = [readCall s s.cfg.rm.fpsc.val 1 [v]]) ∧
    (∃ (ans : BusAnswer) (t : State), exec .rdOvf (s.withEnv ⟨[ans], 0⟩) = .next t ∧
      t.bus = [readCall s s.cfg.rm.stat.val 1 [v]])

/-! ### Configuration -/

/-- RD_FR and RD_MA: one read of one byte, whose field bit alone is decoded; an awake sensor returns the stored byte
(R52, R170, R172). -/
def Obligations.ConfigurationReadsDecodeOneBit : Prop :=
  ∀ s : State, s.cfg.rm.registersApart → s.env.answer.error = none →
    (∃ (t : State) (v : Byte), exec .rdFr s = .next t ∧
      t = afterTransfers s 1 t.mem [readCall s s.cfg.rm.fpsc.val 1 [v]] (okReply (.rate
        (if v.getLsbD s.cfg.rm.fpsBit.val = s.cfg.rm.fpsLowVal then .low else .high))) ∧
      (s.power = .awake → v = s.mem.byteAt s.cfg.rm.fpsc.val) ∧ SameBytesBut s t 1 fun _ => False) ∧
    (∃ (t : State) (v : Byte), exec .rdMa s = .next t ∧
      t = afterTransfers s 1 t.mem [readCall s s.cfg.rm.ave.val 1 [v]] (okReply (.bool
        (v.getLsbD s.cfg.rm.maBit.val))) ∧
      (s.power = .awake → v = s.mem.byteAt s.cfg.rm.ave.val) ∧ SameBytesBut s t 1 fun _ => False)

/-- WR_FR, WR_MA and DIS_INT: a read, then a write of that byte with one bit replaced; at an awake sensor the register then
holds it, and no other register is stored to (R171, R173, R176, R178). -/
def Obligations.SingleBitWritesPreserveTheRest : Prop :=
  ∀ (f : FrameRate) (x : Bool) (s : State), s.cfg.rm.registersApart → s.env.succeeds 2 →
    (∃ (t : State) (old new : Byte), exec (.wrFr f) s = .next t ∧
      BitReplaced old new s.cfg.rm.fpsBit (if f = .low then s.cfg.rm.fpsLowVal else !s.cfg.rm.fpsLowVal) ∧
      t = afterTransfers s 2 t.mem [readCall s s.cfg.rm.fpsc.val 1 [old], writeCall s s.cfg.rm.fpsc.val 1 [new]]
        (okReply .nothing) ∧
      (s.power = .awake → old = s.mem.byteAt s.cfg.rm.fpsc.val ∧ t.mem.byteAt s.cfg.rm.fpsc.val = new ∧
        SameBytesBut s t 2 (· = s.cfg.rm.fpsc.val))) ∧
    (∃ (t : State) (old new : Byte), exec (.wrMa x) s = .next t ∧ BitReplaced old new s.cfg.rm.maBit x ∧
      t = afterTransfers s 2 t.mem [readCall s s.cfg.rm.ave.val 1 [old], writeCall s s.cfg.rm.ave.val 1 [new]]
        (okReply .nothing) ∧
      (s.power = .awake → old = s.mem.byteAt s.cfg.rm.ave.val ∧ t.mem.byteAt s.cfg.rm.ave.val = new ∧
        SameBytesBut s t 2 (· = s.cfg.rm.ave.val))) ∧
    (gatePasses s → ∃ (t : State) (old new : Byte), exec .disInt s = .next t ∧
      BitReplaced old new s.cfg.rm.intenBit false ∧
      t = (afterTransfers s 2 t.mem [readCall s s.cfg.rm.intc.val 1 [old], writeCall s s.cfg.rm.intc.val 1 [new]]
        (okReply .nothing)).withGate (gateAfter s) ∧
      (s.power = .awake → old = s.mem.byteAt s.cfg.rm.intc.val ∧ t.mem.byteAt s.cfg.rm.intc.val = new ∧
        SameBytesBut s t 2 (· = s.cfg.rm.intc.val)))

/-- A frame rate written to an awake sensor is read back (R52). -/
def Obligations.FrameRateReadsBackAsWritten : Prop :=
  ∀ (f : FrameRate) (s t u : State), s.cfg.rm.registersApart → s.power = .awake → exec (.wrFr f) s = .next t →
    exec .rdFr t = .next u → t.lastStatus = .ok → u.lastStatus = .ok → u.reply = okReply (.rate f)

/-- RD_ICFG: four reads in order, decoded; an awake sensor returns the stored bytes (R174). -/
def Obligations.RdIcfgDecodesFourRegions : Prop :=
  ∀ s : State, s.cfg.rm.registersApart → s.env.succeeds 4 → ∃ (t : State) (c u0 u1 l0 l1 h0 h1 : Byte),
    exec .rdIcfg s = .next t ∧
    t = afterTransfers s 4 t.mem
      [readCall s s.cfg.rm.intc.val 1 [c], readCall s s.cfg.rm.inth.val 2 [u0, u1],
       readCall s s.cfg.rm.intl.val 2 [l0, l1], readCall s s.cfg.rm.ihys.val 2 [h0, h1]]
      (okReply (.icfg ⟨c.getLsbD s.cfg.rm.intenBit.val, c.getLsbD s.cfg.rm.intmodBit.val, pixelDegrees u0 u1,
        pixelDegrees l0 l1, hystDegrees h0 h1⟩)) ∧
    (s.power = .awake → c = s.mem.byteAt s.cfg.rm.intc.val ∧
      u0 = s.mem.byteAt s.cfg.rm.inth.val ∧ u1 = s.mem.byteAt (s.cfg.rm.inth.val + 1) ∧
      l0 = s.mem.byteAt s.cfg.rm.intl.val ∧ l1 = s.mem.byteAt (s.cfg.rm.intl.val + 1) ∧
      h0 = s.mem.byteAt s.cfg.rm.ihys.val ∧ h1 = s.mem.byteAt (s.cfg.rm.ihys.val + 1)) ∧
    SameBytesBut s t 4 fun _ => False

/-- WR_ICFG with valid limits: a read of INTC, the three encoded pairs written, then INTC with its two named bits replaced;
at an awake sensor the registers then hold those bytes and no other register is stored to (R175). -/
def Obligations.WrIcfgWritesLimitsThenControl : Prop :=
  ∀ (cf : ICfgIn) (s : State), s.cfg.rm.registersApart → s.cfg.rm.controlBitsDiffer → validLimits cf → gatePasses s →
    s.env.succeeds 5 →
    ∃ (t : State) (eu el eh : Pair) (old new : Byte),
      encodeTemperature cf.upper .pixel = some eu ∧ encodeTemperature cf.lower .pixel = some el ∧
      encodeTemperature cf.hysteresis .hyst = some eh ∧
      (∀ j : Fin 8, new.getLsbD j.val = if j = s.cfg.rm.intenBit then cf.enabled
        else if j = s.cfg.rm.intmodBit then cf.absolute else old.getLsbD j.val) ∧
      exec (.wrIcfg cf) s = .next t ∧
      t = (afterTransfers s 5 t.mem
        [readCall s s.cfg.rm.intc.val 1 [old], writeCall s s.cfg.rm.inth.val 2 eu.toList,
         writeCall s s.cfg.rm.intl.val 2 el.toList, writeCall s s.cfg.rm.ihys.val 2 eh.toList,
         writeCall s s.cfg.rm.intc.val 1 [new]] (okReply .nothing)).withGate (gateAfter s) ∧
      (s.power = .awake → old = s.mem.byteAt s.cfg.rm.intc.val ∧ t.mem.byteAt s.cfg.rm.intc.val = new ∧
        (∀ k : Fin 2, t.mem.byteAt (s.cfg.rm.inth.val + k.val) = eu[k] ∧ t.mem.byteAt (s.cfg.rm.intl.val + k.val) = el[k] ∧
          t.mem.byteAt (s.cfg.rm.ihys.val + k.val) = eh[k]) ∧
        SameBytesBut s t 5 fun a => a = s.cfg.rm.intc.val ∨ within a s.cfg.rm.inth.val 2 = true ∨
          within a s.cfg.rm.intl.val 2 = true ∨ within a s.cfg.rm.ihys.val 2 = true)

/-- WR_ICFG with a NaN: `ValueOutOfRange` for the first NaN in the order upper, lower, hysteresis, before the gate and before
any transfer, in every mode and under every policy (R175, R212, R218). -/
def Obligations.WrIcfgRejectsNaNBeforeTheGate : Prop :=
  ∀ (cf : ICfgIn) (s : State), ¬ validLimits cf →
    exec (.wrIcfg cf) s = .next (answers s (endReply .valueOutOfRange
      (if cf.upper = .nan then .range .pixel (some .upper)
       else if cf.lower = .nan then .range .pixel (some .lower) else .range .hyst (some .hysteresis))))

/-- WR_ICFG whose third write fails at an awake sensor: INTH and INTL are written and stay, INTC is not, each byte of IHYS is
its old or its new byte, and no other register is stored to (R44, R175, R221). -/
def Obligations.WrIcfgFailingLateKeepsEarlierWrites : Prop :=
  ∀ (cf : ICfgIn) (s : State) (e : BusError), s.cfg.rm.registersApart → validLimits cf → s.mode = .awake →
    s.power = .awake → s.env.succeeds 3 → (s.env.after 3).answer.error = some e →
    ∃ (t : State) (eu el eh : Pair), encodeTemperature cf.upper .pixel = some eu ∧
      encodeTemperature cf.lower .pixel = some el ∧ encodeTemperature cf.hysteresis .hyst = some eh ∧
      exec (.wrIcfg cf) s = .next t ∧
      t.reply = endReply .transferError (.transfer 0x45 s.cfg.rm.ihys.val .write e) ∧
      (∀ k : Fin 2, t.mem.byteAt (s.cfg.rm.inth.val + k.val) = eu[k] ∧ t.mem.byteAt (s.cfg.rm.intl.val + k.val) = el[k] ∧
        (t.mem.byteAt (s.cfg.rm.ihys.val + k.val) = eh[k] ∨
          t.mem.byteAt (s.cfg.rm.ihys.val + k.val) = s.mem.byteAt (s.cfg.rm.ihys.val + k.val))) ∧
      SameBytesBut s t 4 fun a => within a s.cfg.rm.inth.val 2 = true ∨ within a s.cfg.rm.intl.val 2 = true ∨
        within a s.cfg.rm.ihys.val 2 = true

/-! ### Status -/

/-- RD_INT: INTC, then STAT; the result is INTF or not enabled (R190); an awake sensor returns INTC as stored (R52). That it
returns STAT as held when enabled is the model's deduction (log 8, log 9): R53 calls that byte a draw, which R55 bounds only
while interrupts are disabled. -/
def Obligations.RdIntIsInterruptOrDisabled : Prop :=
  ∀ s : State, s.env.succeeds 2 → ∃ (t : State) (c v : Byte), exec .rdInt s = .next t ∧
    t = afterTransfers s 2 t.mem [readCall s s.cfg.rm.intc.val 1 [c], readCall s s.cfg.rm.stat.val 1 [v]]
      (okReply (.bool (v.getLsbD s.cfg.rm.intfBit.val || !c.getLsbD s.cfg.rm.intenBit.val))) ∧
    (s.power = .awake → s.cfg.rm.registersApart → c = s.mem.byteAt s.cfg.rm.intc.val ∧
      (c.getLsbD s.cfg.rm.intenBit.val = true → v = t.mem.byteAt s.cfg.rm.stat.val)) ∧
    SameBytesBut s t 2 fun _ => False

/-- While INTC's enabled bit is 0 an awake sensor presents STAT's interrupt flag as 1 to every read, and leaves the overflow
flag as it is held; while it is 1, every bit is as held. The rule forces the flag (R55); that it does so in every read of
every awake sensor is the model's deduction (log 9), and that every other bit is as the register holds it is too (log 8):
R53 calls the byte a draw. -/
def Obligations.StatPresentsInterruptWhileDisabled : Prop :=
  ∀ (s : State) (b : Vector Byte 1) (u : State) (op : Byte), s.cfg.rm.registersApart → s.power = .awake →
    memRead op s.cfg.rm.stat s = .ok b u →
    b[0].getLsbD s.cfg.rm.intfBit.val =
      ((u.mem.byteAt s.cfg.rm.stat.val).getLsbD s.cfg.rm.intfBit.val ||
        !(s.mem.byteAt s.cfg.rm.intc.val).getLsbD s.cfg.rm.intenBit.val) ∧
    ∀ j : Fin 8, j ≠ s.cfg.rm.intfBit → b[0].getLsbD j.val = (u.mem.byteAt s.cfg.rm.stat.val).getLsbD j.val

/-- RD_PXINT and RD_OVF: one read, decoded (R191, R192). That at an awake sensor those are the flags the registers hold is the
model's deduction (log 8): R53 calls the bytes draws. -/
def Obligations.FlagReadsReportTheHeldFlags : Prop :=
  ∀ s : State, s.cfg.rm.registersApart → s.cfg.rm.statusBitsDiffer → s.env.answer.error = none →
    (∃ (t : State) (b : FlagBytes) (g : Grid Bool), exec .rdPxint s = .next t ∧
      t = afterTransfers s 1 t.mem [readCall s s.cfg.rm.pxfBase.val 8 b.toList] (okReply (.flags g)) ∧
      (∀ r c : Fin 8, g[r][c] = b[r].getLsbD c.val) ∧
      (s.power = .awake → ∀ k : Fin 8, b[k] = t.mem.byteAt (s.cfg.rm.pxfBase.val + k.val)) ∧
      SameBytesBut s t 1 fun _ => False) ∧
    (∃ (t : State) (v : Byte), exec .rdOvf s = .next t ∧
      t = afterTransfers s 1 t.mem [readCall s s.cfg.rm.stat.val 1 [v]] (okReply (.bool
        (v.getLsbD s.cfg.rm.ovfBit.val))) ∧
      (s.power = .awake → v.getLsbD s.cfg.rm.ovfBit.val =
        (t.mem.byteAt s.cfg.rm.stat.val).getLsbD s.cfg.rm.ovfBit.val) ∧
      SameBytesBut s t 1 fun _ => False)

/-- RST_INT and RST_OVF: one plain write of the pattern; at an awake sensor exactly their one flag is cleared: every other bit
of STAT, the per-pixel flags and every other register stay (R54, R193, R194). -/
def Obligations.SingleFlagResetsAreIsolated : Prop :=
  ∀ s : State, s.cfg.rm.WellFormed → s.env.answer.error = none →
    (∃ t, exec .rstInt s = .next t ∧
      t = afterTransfers s 1 t.mem [writeCall s s.cfg.rm.rstIntPat.1.val 1 [s.cfg.rm.rstIntPat.2]] (okReply .nothing) ∧
      (s.power = .awake → (t.mem.byteAt s.cfg.rm.stat.val).getLsbD s.cfg.rm.intfBit.val = false ∧
        (s.env.noFrames 1 →
          BitReplaced (s.mem.byteAt s.cfg.rm.stat.val) (t.mem.byteAt s.cfg.rm.stat.val) s.cfg.rm.intfBit false) ∧
        SameBytesBut s t 1 (· = s.cfg.rm.stat.val))) ∧
    (∃ t, exec .rstOvf s = .next t ∧
      t = afterTransfers s 1 t.mem [writeCall s s.cfg.rm.rstOvfPat.1.val 1 [s.cfg.rm.rstOvfPat.2]] (okReply .nothing) ∧
      (s.power = .awake → (t.mem.byteAt s.cfg.rm.stat.val).getLsbD s.cfg.rm.ovfBit.val = false ∧
        (s.env.noFrames 1 →
          BitReplaced (s.mem.byteAt s.cfg.rm.stat.val) (t.mem.byteAt s.cfg.rm.stat.val) s.cfg.rm.ovfBit false) ∧
        SameBytesBut s t 1 (· = s.cfg.rm.stat.val)))

/-- RST_FLAGS: one plain write of the pattern; at an awake sensor INTF, OVF and every per-pixel flag are cleared, and every
other bit of STAT and every other register stay (R54, R195). -/
def Obligations.RstFlagsClearsAllThree : Prop :=
  ∀ s : State, s.cfg.rm.WellFormed → s.env.answer.error = none →
    ∃ t, exec .rstFlags s = .next t ∧
      t = afterTransfers s 1 t.mem [writeCall s s.cfg.rm.rstAllPat.1.val 1 [s.cfg.rm.rstAllPat.2]] (okReply .nothing) ∧
      (s.power = .awake →
        (t.mem.byteAt s.cfg.rm.stat.val).getLsbD s.cfg.rm.intfBit.val = false ∧
        (t.mem.byteAt s.cfg.rm.stat.val).getLsbD s.cfg.rm.ovfBit.val = false ∧
        (∀ k : Fin 8, t.mem.byteAt (s.cfg.rm.pxfBase.val + k.val) = 0) ∧
        (s.env.noFrames 1 → ∀ j : Fin 8, j ≠ s.cfg.rm.intfBit → j ≠ s.cfg.rm.ovfBit →
          (t.mem.byteAt s.cfg.rm.stat.val).getLsbD j.val = (s.mem.byteAt s.cfg.rm.stat.val).getLsbD j.val) ∧
        SameBytesBut s t 1 fun a => a = s.cfg.rm.stat.val ∨ within a s.cfg.rm.pxfBase.val 8 = true)

/-! ### Host programs -/

/-- A well-formed scope always runs to its end: SCOPE_ENTER is issued; when its status is not OK the construct ends there and
reports it; when it is OK the body runs, leaves the scope open, and SCOPE_EXIT is issued whatever the body's status was, both
statuses reported (R146 to R148). And the construct is the only way a program opens a scope: a well-formed program runs, and
from a state with no scope open ends with none open (R148; log 20). -/
def Obligations.ScopeAlwaysRunsToItsExit : Prop :=
  (∀ (body : HostProgram) (s : State), body.bodyWellFormed = true →
    ∃ (s1 : State) (stEnter : Status), issue (encode .scopeEnter) s = some (s1, stEnter) ∧
      (stEnter ≠ .ok → runScope body s = some (s1, .notEntered stEnter)) ∧
      (stEnter = .ok → ∃ (s2 t : State) (stBody stExit : Status), runBody body s1 = some (s2, stBody) ∧
        s2.scopeActive = true ∧ issue (encode .scopeExit) s2 = some (t, stExit) ∧
        runScope body s = some (t, .scope stBody stExit))) ∧
  ∀ (p : HostProgram) (s : State), p.wellFormed = true → s.scopeActive = false →
    ∃ (t : State) (reports : List Report), runProgram p s = some (t, reports) ∧ t.scopeActive = false

/-- The scope guarantee: after a scope that was entered, `scope_active` is 0; `mode` is ASLEEP when the exit is OK; and for a
body without SLEEP, exactly then (R149; log 18 for a body with SLEEP). -/
def Obligations.ScopeAlwaysReleases : Prop :=
  ∀ (body : HostProgram) (s t : State) (stBody stExit : Status), body.bodyWellFormed = true →
    runScope body s = some (t, .scope stBody stExit) →
    t.scopeActive = false ∧ (stExit = .ok → t.mode = .asleep) ∧
      (noSleep body → (t.mode = .asleep ↔ stExit = .ok))

/-- `WR_FR "s"` with a string that is no rate: `InvalidEnumValue`, no WR_FR, no transfer (R93, R213); no register changes, but
that frame events before the command may have changed a sensor-driven one (R57). -/
def Obligations.BadRateStringIssuesNoWrite : Prop :=
  ∀ (str : String) (s : State), str ≠ "low" → str ≠ "high" → ∃ (mem : Memory) (turns : List Turn),
    issueWrFrString str s =
      some (answers (((s.withMem mem).withTurns turns).withPort []) (endReply .invalidEnumValue (.badEnum str)),
        .invalidEnumValue) ∧
    ∀ a, isSensorDriven s.cfg.rm a = false ∨ s.environmentMoves = false → mem.byteAt a = s.mem.byteAt a
end

