-- ==== Sys2Proof/Laws/Memory.lean ====
section
/-! SUPPORT. The laws of the register space: read after write, and the canonical form kept by every operation. -/

namespace Sys2Proof.Machine

open Host

namespace Memory

/-- A register just written holds the byte; every other register holds what it held. -/
@[simp] theorem lookup_write (m : Memory) (a b : Nat) (v : Byte) :
    (m.write a v).lookup b = if b = a then some v else m.lookup b := by
  induction m with
  | nil => simp [write, lookup, eq_comm]
  | cons c rest ih =>
    unfold write
    split
    · rename_i h
      by_cases hb : b = a
      · simp [lookup, hb]
      · simp [lookup, hb, h, Ne.symm hb]
    · split
      · rename_i h hlt
        by_cases hb : b = a
        · simp [lookup, hb]
        · simp [lookup, hb, Ne.symm hb]
      · rename_i h hlt
        by_cases hb : b = a
        · subst hb; simp [lookup, h, ih]
        · simp [lookup, hb, ih]

/-- The byte held after a write. -/
@[simp] theorem byteAt_write (m : Memory) (a b : Nat) (v : Byte) :
    (m.write a v).byteAt b = if b = a then v else m.byteAt b := by
  unfold byteAt
  by_cases h : b = a <;> simp [h]

@[simp] theorem byteAt_nil (a : Nat) : byteAt [] a = Config.powerOnByte a := rfl

theorem above_write {m : Memory} {a b : Nat} {v : Byte} (hm : above b m = true) (hb : b < a) :
    above b (m.write a v) = true := by
  induction m with
  | nil => simp [write, above, hb]
  | cons c rest ih =>
    simp only [above, List.all_cons, Bool.and_eq_true, decide_eq_true_eq] at hm
    unfold write
    split
    · simp only [above, List.all_cons, Bool.and_eq_true, decide_eq_true_eq]; exact ⟨hb, hm.2⟩
    · split
      · simp only [above, List.all_cons, Bool.and_eq_true, decide_eq_true_eq]; exact ⟨hb, hm⟩
      · simp only [above, List.all_cons, Bool.and_eq_true, decide_eq_true_eq]; exact ⟨hm.1, ih hm.2⟩

theorem above_mono {m : Memory} {a b : Nat} (h : above b m = true) (hab : a ≤ b) : above a m = true := by
  simp only [above, List.all_eq_true, decide_eq_true_eq] at h ⊢
  exact fun c hc => lt_of_le_of_lt hab (h c hc)

/-- A write of a register of the space keeps the canonical form. -/
theorem wf_write {m : Memory} {a : Nat} {v : Byte} (hm : m.wf = true) (ha : a < 256) : (m.write a v).wf = true := by
  induction m with
  | nil => simp [write, wf, above, ha]
  | cons c rest ih =>
    simp only [wf, Bool.and_eq_true, decide_eq_true_eq] at hm
    obtain ⟨⟨h1, h2⟩, h3⟩ := hm
    unfold write
    split
    · rename_i h; subst h
      simp [wf, h1, h2, h3]
    · split
      · rename_i h hlt
        simp only [wf, Bool.and_eq_true, decide_eq_true_eq, above, List.all_cons]
        exact ⟨⟨ha, hlt, above_mono h2 (le_of_lt hlt)⟩, ⟨h1, h2⟩, h3⟩
      · rename_i h hlt
        simp only [wf, Bool.and_eq_true, decide_eq_true_eq]
        exact ⟨⟨h1, above_write h2 (by omega)⟩, ih h3⟩

/-- Writing consecutive registers of the space keeps the canonical form. -/
theorem wf_writeBytes {vs : List Byte} {m : Memory} {a : Nat} (hm : m.wf = true) (ha : a + vs.length ≤ 256) :
    (m.writeBytes a vs).wf = true := by
  induction vs generalizing m a with
  | nil => exact hm
  | cons v vs ih =>
    simp only [List.length_cons] at ha
    exact ih (wf_write hm (by omega)) (by omega)

/-- Whatever the environment changes keeps the canonical form. -/
theorem wf_change {cs : List RegValue} {m : Memory} (hm : m.wf = true) : (m.change cs).wf = true := by
  induction cs generalizing m with
  | nil => exact hm
  | cons c cs ih => exact ih (wf_write hm c.1.isLt)

/-- The byte a register holds after writing consecutive registers. -/
theorem byteAt_writeBytes (vs : List Byte) (m : Memory) (a b : Nat) :
    (m.writeBytes a vs).byteAt b = if h : a ≤ b ∧ b < a + vs.length then vs[b - a] else m.byteAt b := by
  induction vs generalizing m a with
  | nil => simp [writeBytes]
  | cons v vs ih =>
    simp only [writeBytes, ih, byteAt_write, List.length_cons]
    by_cases hb : b = a
    · subst hb; simp
    · by_cases h : a + 1 ≤ b ∧ b < a + 1 + vs.length
      · have h' : a ≤ b ∧ b < a + (vs.length + 1) := by omega
        have e : b - a = (b - (a + 1)) + 1 := by omega
        simp only [h, h', dif_pos, and_self, e, List.getElem_cons_succ]
      · have h' : ¬ (a ≤ b ∧ b < a + (vs.length + 1)) := by omega
        rw [dif_neg h, dif_neg h', if_neg hb]

/-- A register that no change names holds what it held. -/
theorem byteAt_change_of_not_mem (cs : List RegValue) (m : Memory) (b : Nat) (h : ∀ c ∈ cs, c.1.val ≠ b) :
    (m.change cs).byteAt b = m.byteAt b := by
  induction cs generalizing m with
  | nil => rfl
  | cons c cs ih =>
    have h1 := h c (by simp)
    have : (m.change (c :: cs)) = (m.write c.1.val c.2).change cs := rfl
    rw [this, ih _ (fun d hd => h d (by simp [hd])), byteAt_write, if_neg (Ne.symm h1)]

@[simp] theorem change_nil (m : Memory) : m.change [] = m := rfl

/-- An address below everything listed is not listed. -/
theorem lookup_of_above {m : Memory} {a b : Nat} (h : above b m = true) (hab : a ≤ b) : m.lookup a = none := by
  induction m with
  | nil => rfl
  | cons c rest ih =>
    simp only [above, List.all_cons, Bool.and_eq_true, decide_eq_true_eq] at h
    have : c.1 ≠ a := by omega
    simp only [lookup, this, if_false]
    exact ih h.2

/-- Equal registers make equal lists: two memories in canonical form that list the same values are the same memory. -/
theorem eq_of_lookup {m n : Memory} (hm : m.wf = true) (hn : n.wf = true) (h : ∀ a, m.lookup a = n.lookup a) : m = n := by
  induction m generalizing n with
  | nil =>
    cases n with
    | nil => rfl
    | cons d n => have := h d.1; simp [lookup] at this
  | cons c m ih =>
    cases n with
    | nil => have := h c.1; simp [lookup] at this
    | cons d n =>
      simp only [wf, Bool.and_eq_true, decide_eq_true_eq] at hm hn
      have hcd : c.1 = d.1 := by
        rcases Nat.lt_trichotomy c.1 d.1 with hlt | heq | hgt
        · have h1 := h c.1
          have h2 := lookup_of_above hn.1.2 (le_of_lt hlt)
          simp [lookup, (Nat.ne_of_lt hlt).symm, h2] at h1
        · exact heq
        · have h1 := h d.1
          have h2 := lookup_of_above hm.1.2 (le_of_lt hgt)
          simp [lookup, (Nat.ne_of_lt hgt).symm, h2] at h1
      have hv : c.2 = d.2 := by have := h c.1; simp [lookup, hcd] at this; exact this
      have hrest : ∀ a, Memory.lookup m a = Memory.lookup n a := by
        intro a
        by_cases ha : a ≤ c.1
        · rw [lookup_of_above hm.1.2 ha, lookup_of_above hn.1.2 (hcd ▸ ha)]
        · have := h a
          have n1 : c.1 ≠ a := by omega
          have n2 : d.1 ≠ a := by omega
          simpa [lookup, n1, n2] using this
      rw [ih hm.2 hn.2 hrest, Prod.ext hcd hv]

end Memory

end Sys2Proof.Machine
end

