-- ==== Sys2Proof/Laws/Flags.lean ====
section
/-! SUPPORT. What the bit helpers and the flag operations do, bit by bit. -/

namespace Sys2Proof.Machine

/-- `getbit` reads the bit. -/
theorem getBit_eq (v : Byte) (p : Fin 8) : getBit v p = v.getLsbD p.val := by
  revert v p; decide +kernel

/-- `setbit` sets bit p and leaves every other bit as it was. -/
theorem getBit_setBit (v : Byte) (p q : Fin 8) (x : Bool) :
    getBit (setBit v p x) q = if q = p then x else getBit v q := by
  revert v p q x; decide +kernel

@[simp] theorem getBit_setBit_same (v : Byte) (p : Fin 8) (x : Bool) : getBit (setBit v p x) p = x := by
  simp [getBit_setBit]

/-- A byte is its eight bits. -/
theorem byte_ext {v w : Byte} (h : ∀ p : Fin 8, getBit v p = getBit w p) : v = w := by
  apply BitVec.eq_of_getLsbD_eq
  intro i hi
  have := h ⟨i, hi⟩
  simpa [getBit_eq] using this

/-- A rate's bit decodes to the rate, whatever the polarity. -/
theorem decodeFrameRate_bit (m : RegMap) (v : Byte) (x : FrameRate) :
    decodeFrameRate m v = x ↔ getBit v m.fpsBit = frameRateBit m x := by
  unfold decodeFrameRate
  cases x <;> cases h : getBit v m.fpsBit <;> cases h2 : m.fpsLowVal <;> simp [frameRateBit, h2]

/-- Clearing a flag bit of STAT changes that bit and no other register. -/
theorem byteAt_clearStatBit (m : RegMap) (p : Fin 8) (mem : Memory) (a : Nat) :
    (clearStatBit m p mem).byteAt a =
      if a = m.stat.val then setBit (mem.byteAt m.stat.val) p false else mem.byteAt a := by
  simp [clearStatBit]

/-- Clearing the per-pixel flags zeroes their eight bytes and changes no other register. -/
theorem byteAt_clearPixelFlags (m : RegMap) (mem : Memory) (a : Nat) :
    (clearPixelFlags m mem).byteAt a = if within a m.pxfBase.val 8 then 0 else mem.byteAt a := by
  simp only [clearPixelFlags, Memory.byteAt_writeBytes, within, List.length_replicate, Bool.and_eq_true,
    decide_eq_true_eq, List.getElem_replicate]
  by_cases h : m.pxfBase.val ≤ a ∧ a < m.pxfBase.val + 8 <;> simp [h]

theorem wf_clearStatBit {m : RegMap} {p : Fin 8} {mem : Memory} (h : mem.wf = true) :
    (clearStatBit m p mem).wf = true :=
  Memory.wf_write h (by have := m.stat.isLt; omega)

theorem wf_clearPixelFlags {m : RegMap} {mem : Memory} (h : mem.wf = true) : (clearPixelFlags m mem).wf = true :=
  Memory.wf_writeBytes h (by have := m.pxfBase.isLt; simp; omega)

/-- STAT's INTF is presented as 1 while interrupts are disabled; nothing else is presented other than held. -/
theorem presented_of_ne {m : RegMap} {mem : Memory} {a : Nat} (h : a ≠ m.stat.val) :
    presented m mem a = mem.byteAt a := by
  simp [presented, h]

end Sys2Proof.Machine
end

