-- ==== Sys2Proof/Laws/State.lean ====
section
/-! SUPPORT. What each named update of State does to each field: one lemma per field per update. -/

namespace Sys2Proof.Machine

section withMode
variable (s : State) (x : Mode)
@[simp] theorem State.withMode_cfg : (s.withMode x).cfg = s.cfg := rfl
@[simp] theorem State.withMode_mode : (s.withMode x).mode = x := rfl
@[simp] theorem State.withMode_scopeActive : (s.withMode x).scopeActive = s.scopeActive := rfl
@[simp] theorem State.withMode_gateViolation : (s.withMode x).gateViolation = s.gateViolation := rfl
@[simp] theorem State.withMode_refused : (s.withMode x).refused = s.refused := rfl
@[simp] theorem State.withMode_mem : (s.withMode x).mem = s.mem := rfl
@[simp] theorem State.withMode_power : (s.withMode x).power = s.power := rfl
@[simp] theorem State.withMode_env : (s.withMode x).env = s.env := rfl
@[simp] theorem State.withMode_turns : (s.withMode x).turns = s.turns := rfl
@[simp] theorem State.withMode_port : (s.withMode x).port = s.port := rfl
@[simp] theorem State.withMode_reply : (s.withMode x).reply = s.reply := rfl
@[simp] theorem State.withMode_bus : (s.withMode x).bus = s.bus := rfl
end withMode

section withScope
variable (s : State) (x : Bool)
@[simp] theorem State.withScope_cfg : (s.withScope x).cfg = s.cfg := rfl
@[simp] theorem State.withScope_mode : (s.withScope x).mode = s.mode := rfl
@[simp] theorem State.withScope_scopeActive : (s.withScope x).scopeActive = x := rfl
@[simp] theorem State.withScope_gateViolation : (s.withScope x).gateViolation = s.gateViolation := rfl
@[simp] theorem State.withScope_refused : (s.withScope x).refused = s.refused := rfl
@[simp] theorem State.withScope_mem : (s.withScope x).mem = s.mem := rfl
@[simp] theorem State.withScope_power : (s.withScope x).power = s.power := rfl
@[simp] theorem State.withScope_env : (s.withScope x).env = s.env := rfl
@[simp] theorem State.withScope_turns : (s.withScope x).turns = s.turns := rfl
@[simp] theorem State.withScope_port : (s.withScope x).port = s.port := rfl
@[simp] theorem State.withScope_reply : (s.withScope x).reply = s.reply := rfl
@[simp] theorem State.withScope_bus : (s.withScope x).bus = s.bus := rfl
end withScope

section withGate
variable (s : State) (x : Bool)
@[simp] theorem State.withGate_cfg : (s.withGate x).cfg = s.cfg := rfl
@[simp] theorem State.withGate_mode : (s.withGate x).mode = s.mode := rfl
@[simp] theorem State.withGate_scopeActive : (s.withGate x).scopeActive = s.scopeActive := rfl
@[simp] theorem State.withGate_gateViolation : (s.withGate x).gateViolation = x := rfl
@[simp] theorem State.withGate_refused : (s.withGate x).refused = s.refused := rfl
@[simp] theorem State.withGate_mem : (s.withGate x).mem = s.mem := rfl
@[simp] theorem State.withGate_power : (s.withGate x).power = s.power := rfl
@[simp] theorem State.withGate_env : (s.withGate x).env = s.env := rfl
@[simp] theorem State.withGate_turns : (s.withGate x).turns = s.turns := rfl
@[simp] theorem State.withGate_port : (s.withGate x).port = s.port := rfl
@[simp] theorem State.withGate_reply : (s.withGate x).reply = s.reply := rfl
@[simp] theorem State.withGate_bus : (s.withGate x).bus = s.bus := rfl
end withGate

section withRefused
variable (s : State) (x : Bool)
@[simp] theorem State.withRefused_cfg : (s.withRefused x).cfg = s.cfg := rfl
@[simp] theorem State.withRefused_mode : (s.withRefused x).mode = s.mode := rfl
@[simp] theorem State.withRefused_scopeActive : (s.withRefused x).scopeActive = s.scopeActive := rfl
@[simp] theorem State.withRefused_gateViolation : (s.withRefused x).gateViolation = s.gateViolation := rfl
@[simp] theorem State.withRefused_refused : (s.withRefused x).refused = x := rfl
@[simp] theorem State.withRefused_mem : (s.withRefused x).mem = s.mem := rfl
@[simp] theorem State.withRefused_power : (s.withRefused x).power = s.power := rfl
@[simp] theorem State.withRefused_env : (s.withRefused x).env = s.env := rfl
@[simp] theorem State.withRefused_turns : (s.withRefused x).turns = s.turns := rfl
@[simp] theorem State.withRefused_port : (s.withRefused x).port = s.port := rfl
@[simp] theorem State.withRefused_reply : (s.withRefused x).reply = s.reply := rfl
@[simp] theorem State.withRefused_bus : (s.withRefused x).bus = s.bus := rfl
end withRefused

section withMem
variable (s : State) (x : Memory)
@[simp] theorem State.withMem_cfg : (s.withMem x).cfg = s.cfg := rfl
@[simp] theorem State.withMem_mode : (s.withMem x).mode = s.mode := rfl
@[simp] theorem State.withMem_scopeActive : (s.withMem x).scopeActive = s.scopeActive := rfl
@[simp] theorem State.withMem_gateViolation : (s.withMem x).gateViolation = s.gateViolation := rfl
@[simp] theorem State.withMem_refused : (s.withMem x).refused = s.refused := rfl
@[simp] theorem State.withMem_mem : (s.withMem x).mem = x := rfl
@[simp] theorem State.withMem_power : (s.withMem x).power = s.power := rfl
@[simp] theorem State.withMem_env : (s.withMem x).env = s.env := rfl
@[simp] theorem State.withMem_turns : (s.withMem x).turns = s.turns := rfl
@[simp] theorem State.withMem_port : (s.withMem x).port = s.port := rfl
@[simp] theorem State.withMem_reply : (s.withMem x).reply = s.reply := rfl
@[simp] theorem State.withMem_bus : (s.withMem x).bus = s.bus := rfl
end withMem

section withPower
variable (s : State) (x : SensorPower)
@[simp] theorem State.withPower_cfg : (s.withPower x).cfg = s.cfg := rfl
@[simp] theorem State.withPower_mode : (s.withPower x).mode = s.mode := rfl
@[simp] theorem State.withPower_scopeActive : (s.withPower x).scopeActive = s.scopeActive := rfl
@[simp] theorem State.withPower_gateViolation : (s.withPower x).gateViolation = s.gateViolation := rfl
@[simp] theorem State.withPower_refused : (s.withPower x).refused = s.refused := rfl
@[simp] theorem State.withPower_mem : (s.withPower x).mem = s.mem := rfl
@[simp] theorem State.withPower_power : (s.withPower x).power = x := rfl
@[simp] theorem State.withPower_env : (s.withPower x).env = s.env := rfl
@[simp] theorem State.withPower_turns : (s.withPower x).turns = s.turns := rfl
@[simp] theorem State.withPower_port : (s.withPower x).port = s.port := rfl
@[simp] theorem State.withPower_reply : (s.withPower x).reply = s.reply := rfl
@[simp] theorem State.withPower_bus : (s.withPower x).bus = s.bus := rfl
end withPower

section withEnv
variable (s : State) (x : Env)
@[simp] theorem State.withEnv_cfg : (s.withEnv x).cfg = s.cfg := rfl
@[simp] theorem State.withEnv_mode : (s.withEnv x).mode = s.mode := rfl
@[simp] theorem State.withEnv_scopeActive : (s.withEnv x).scopeActive = s.scopeActive := rfl
@[simp] theorem State.withEnv_gateViolation : (s.withEnv x).gateViolation = s.gateViolation := rfl
@[simp] theorem State.withEnv_refused : (s.withEnv x).refused = s.refused := rfl
@[simp] theorem State.withEnv_mem : (s.withEnv x).mem = s.mem := rfl
@[simp] theorem State.withEnv_power : (s.withEnv x).power = s.power := rfl
@[simp] theorem State.withEnv_env : (s.withEnv x).env = x := rfl
@[simp] theorem State.withEnv_turns : (s.withEnv x).turns = s.turns := rfl
@[simp] theorem State.withEnv_port : (s.withEnv x).port = s.port := rfl
@[simp] theorem State.withEnv_reply : (s.withEnv x).reply = s.reply := rfl
@[simp] theorem State.withEnv_bus : (s.withEnv x).bus = s.bus := rfl
end withEnv

section withTurns
variable (s : State) (x : List Turn)
@[simp] theorem State.withTurns_cfg : (s.withTurns x).cfg = s.cfg := rfl
@[simp] theorem State.withTurns_mode : (s.withTurns x).mode = s.mode := rfl
@[simp] theorem State.withTurns_scopeActive : (s.withTurns x).scopeActive = s.scopeActive := rfl
@[simp] theorem State.withTurns_gateViolation : (s.withTurns x).gateViolation = s.gateViolation := rfl
@[simp] theorem State.withTurns_refused : (s.withTurns x).refused = s.refused := rfl
@[simp] theorem State.withTurns_mem : (s.withTurns x).mem = s.mem := rfl
@[simp] theorem State.withTurns_power : (s.withTurns x).power = s.power := rfl
@[simp] theorem State.withTurns_env : (s.withTurns x).env = s.env := rfl
@[simp] theorem State.withTurns_turns : (s.withTurns x).turns = x := rfl
@[simp] theorem State.withTurns_port : (s.withTurns x).port = s.port := rfl
@[simp] theorem State.withTurns_reply : (s.withTurns x).reply = s.reply := rfl
@[simp] theorem State.withTurns_bus : (s.withTurns x).bus = s.bus := rfl
end withTurns

section withPort
variable (s : State) (x : List Command)
@[simp] theorem State.withPort_cfg : (s.withPort x).cfg = s.cfg := rfl
@[simp] theorem State.withPort_mode : (s.withPort x).mode = s.mode := rfl
@[simp] theorem State.withPort_scopeActive : (s.withPort x).scopeActive = s.scopeActive := rfl
@[simp] theorem State.withPort_gateViolation : (s.withPort x).gateViolation = s.gateViolation := rfl
@[simp] theorem State.withPort_refused : (s.withPort x).refused = s.refused := rfl
@[simp] theorem State.withPort_mem : (s.withPort x).mem = s.mem := rfl
@[simp] theorem State.withPort_power : (s.withPort x).power = s.power := rfl
@[simp] theorem State.withPort_env : (s.withPort x).env = s.env := rfl
@[simp] theorem State.withPort_turns : (s.withPort x).turns = s.turns := rfl
@[simp] theorem State.withPort_port : (s.withPort x).port = x := rfl
@[simp] theorem State.withPort_reply : (s.withPort x).reply = s.reply := rfl
@[simp] theorem State.withPort_bus : (s.withPort x).bus = s.bus := rfl
end withPort

section withReply
variable (s : State) (x : Option Reply)
@[simp] theorem State.withReply_cfg : (s.withReply x).cfg = s.cfg := rfl
@[simp] theorem State.withReply_mode : (s.withReply x).mode = s.mode := rfl
@[simp] theorem State.withReply_scopeActive : (s.withReply x).scopeActive = s.scopeActive := rfl
@[simp] theorem State.withReply_gateViolation : (s.withReply x).gateViolation = s.gateViolation := rfl
@[simp] theorem State.withReply_refused : (s.withReply x).refused = s.refused := rfl
@[simp] theorem State.withReply_mem : (s.withReply x).mem = s.mem := rfl
@[simp] theorem State.withReply_power : (s.withReply x).power = s.power := rfl
@[simp] theorem State.withReply_env : (s.withReply x).env = s.env := rfl
@[simp] theorem State.withReply_turns : (s.withReply x).turns = s.turns := rfl
@[simp] theorem State.withReply_port : (s.withReply x).port = s.port := rfl
@[simp] theorem State.withReply_reply : (s.withReply x).reply = x := rfl
@[simp] theorem State.withReply_bus : (s.withReply x).bus = s.bus := rfl
end withReply

section withBus
variable (s : State) (x : List BusCall)
@[simp] theorem State.withBus_cfg : (s.withBus x).cfg = s.cfg := rfl
@[simp] theorem State.withBus_mode : (s.withBus x).mode = s.mode := rfl
@[simp] theorem State.withBus_scopeActive : (s.withBus x).scopeActive = s.scopeActive := rfl
@[simp] theorem State.withBus_gateViolation : (s.withBus x).gateViolation = s.gateViolation := rfl
@[simp] theorem State.withBus_refused : (s.withBus x).refused = s.refused := rfl
@[simp] theorem State.withBus_mem : (s.withBus x).mem = s.mem := rfl
@[simp] theorem State.withBus_power : (s.withBus x).power = s.power := rfl
@[simp] theorem State.withBus_env : (s.withBus x).env = s.env := rfl
@[simp] theorem State.withBus_turns : (s.withBus x).turns = s.turns := rfl
@[simp] theorem State.withBus_port : (s.withBus x).port = s.port := rfl
@[simp] theorem State.withBus_reply : (s.withBus x).reply = s.reply := rfl
@[simp] theorem State.withBus_bus : (s.withBus x).bus = x := rfl
end withBus

/-! Two states with the same fields are the same state. -/

theorem State.ext_fields {s t : State} (h0 : s.cfg = t.cfg) (h1 : s.mode = t.mode) (h2 : s.scopeActive = t.scopeActive) (h3 : s.gateViolation = t.gateViolation) (h4 : s.refused = t.refused) (h5 : s.mem = t.mem) (h6 : s.power = t.power) (h7 : s.env = t.env) (h8 : s.port = t.port) (h11 : s.turns = t.turns) (h9 : s.reply = t.reply) (h10 : s.bus = t.bus) : s = t := by
  cases s; cases t; simp_all

end Sys2Proof.Machine
end

