-- ==== Sys2Proof/Laws/Ops.lean ====
section
/-! SUPPORT. One lemma for each shared operation that says everything it can do; later proofs cite these. -/

namespace Sys2Proof.Machine

/-! ### Ending a command -/

section ending
variable (e : Stop) (v : Value) (s : State)

@[simp] theorem raise_cfg : (raise e s).cfg = s.cfg := rfl
@[simp] theorem raise_mode : (raise e s).mode = s.mode := rfl
@[simp] theorem raise_scopeActive : (raise e s).scopeActive = s.scopeActive := rfl
@[simp] theorem raise_gateViolation : (raise e s).gateViolation = s.gateViolation := rfl
@[simp] theorem raise_refused : (raise e s).refused = (s.refused || e.isRefusal) := rfl
@[simp] theorem raise_mem : (raise e s).mem = s.mem := rfl
@[simp] theorem raise_power : (raise e s).power = s.power := rfl
@[simp] theorem raise_env : (raise e s).env = s.env := rfl
@[simp] theorem raise_turns : (raise e s).turns = s.turns := rfl
@[simp] theorem raise_port : (raise e s).port = s.port := rfl
@[simp] theorem raise_reply : (raise e s).reply = some ⟨e.status, none, e.info⟩ := rfl
@[simp] theorem raise_bus : (raise e s).bus = s.bus := rfl

@[simp] theorem deliver_cfg : (deliver v s).cfg = s.cfg := rfl
@[simp] theorem deliver_mode : (deliver v s).mode = s.mode := rfl
@[simp] theorem deliver_scopeActive : (deliver v s).scopeActive = s.scopeActive := rfl
@[simp] theorem deliver_gateViolation : (deliver v s).gateViolation = s.gateViolation := rfl
@[simp] theorem deliver_refused : (deliver v s).refused = s.refused := rfl
@[simp] theorem deliver_mem : (deliver v s).mem = s.mem := rfl
@[simp] theorem deliver_power : (deliver v s).power = s.power := rfl
@[simp] theorem deliver_env : (deliver v s).env = s.env := rfl
@[simp] theorem deliver_turns : (deliver v s).turns = s.turns := rfl
@[simp] theorem deliver_port : (deliver v s).port = s.port := rfl
@[simp] theorem deliver_reply : (deliver v s).reply = some ⟨.ok, some v, .none⟩ := rfl
@[simp] theorem deliver_bus : (deliver v s).bus = s.bus := rfl

@[simp] theorem start_cfg : (start s).cfg = s.cfg := rfl
@[simp] theorem start_mode : (start s).mode = s.mode := rfl
@[simp] theorem start_scopeActive : (start s).scopeActive = s.scopeActive := rfl
@[simp] theorem start_gateViolation : (start s).gateViolation = s.gateViolation := rfl
@[simp] theorem start_refused : (start s).refused = s.refused := rfl
@[simp] theorem start_mem : (start s).mem = s.mem := rfl
@[simp] theorem start_power : (start s).power = s.power := rfl
@[simp] theorem start_env : (start s).env = s.env := rfl
@[simp] theorem start_turns : (start s).turns = s.turns := rfl
@[simp] theorem start_port : (start s).port = s.port := rfl
@[simp] theorem start_reply : (start s).reply = s.reply := rfl
@[simp] theorem start_bus : (start s).bus = [] := rfl
end ending

@[simp] theorem conclude_ok (v : Value) (s : State) : conclude (.ok v s) = deliver v s := rfl
@[simp] theorem conclude_stop (e : Stop) (s : State) : conclude (.stop e s) = raise e s := rfl
@[simp] theorem andThen_ok {α β : Type} (a : α) (s : State) (k : α → State → Res β) :
    (Res.ok a s).andThen k = k a s := rfl
@[simp] theorem andThen_stop {α β : Type} (e : Stop) (s : State) (k : α → State → Res β) :
    (Res.stop e s : Res α).andThen k = .stop e s := rfl
@[simp] theorem nothing_ok (s : State) : nothing (.ok () s) = .ok .nothing s := rfl
@[simp] theorem nothing_stop (e : Stop) (s : State) : nothing (.stop e s) = .stop e s := rfl

/-- A command always ends in a next state: errors and refusals are next states. -/
theorem perform_eq (body : State → Res Value) (s : State) : perform body s = .next (conclude (body (start s))) := rfl

/-! ### Around a transfer -/

section around
variable (c : BusCall) (s : State)

@[simp] theorem frameStep_cfg (f : List RegValue) : (frameStep f s).cfg = s.cfg := rfl
@[simp] theorem frameStep_mode (f : List RegValue) : (frameStep f s).mode = s.mode := rfl
@[simp] theorem frameStep_scopeActive (f : List RegValue) : (frameStep f s).scopeActive = s.scopeActive := rfl
@[simp] theorem frameStep_gateViolation (f : List RegValue) : (frameStep f s).gateViolation = s.gateViolation := rfl
@[simp] theorem frameStep_refused (f : List RegValue) : (frameStep f s).refused = s.refused := rfl
@[simp] theorem frameStep_power (f : List RegValue) : (frameStep f s).power = s.power := rfl
@[simp] theorem frameStep_env (f : List RegValue) : (frameStep f s).env = s.env := rfl
@[simp] theorem frameStep_turns (f : List RegValue) : (frameStep f s).turns = s.turns := rfl
@[simp] theorem frameStep_port (f : List RegValue) : (frameStep f s).port = s.port := rfl
@[simp] theorem frameStep_reply (f : List RegValue) : (frameStep f s).reply = s.reply := rfl
@[simp] theorem frameStep_bus (f : List RegValue) : (frameStep f s).bus = s.bus := rfl
@[simp] theorem frameStep_mem (f : List RegValue) : (frameStep f s).mem = frameEvents s.cfg.rm f s.mem := rfl

@[simp] theorem beforeTransfer_cfg : (beforeTransfer s).cfg = s.cfg := rfl
@[simp] theorem beforeTransfer_mode : (beforeTransfer s).mode = s.mode := rfl
@[simp] theorem beforeTransfer_scopeActive : (beforeTransfer s).scopeActive = s.scopeActive := rfl
@[simp] theorem beforeTransfer_gateViolation : (beforeTransfer s).gateViolation = s.gateViolation := rfl
@[simp] theorem beforeTransfer_refused : (beforeTransfer s).refused = s.refused := rfl
@[simp] theorem beforeTransfer_mem :
    (beforeTransfer s).mem = frameEvents s.cfg.rm s.env.answer.frames s.mem := rfl
@[simp] theorem beforeTransfer_power : (beforeTransfer s).power = s.power := rfl
@[simp] theorem beforeTransfer_env : (beforeTransfer s).env = s.env.advance := rfl
@[simp] theorem beforeTransfer_turns : (beforeTransfer s).turns = s.turns := rfl
@[simp] theorem beforeTransfer_port : (beforeTransfer s).port = s.port := rfl
@[simp] theorem beforeTransfer_reply : (beforeTransfer s).reply = s.reply := rfl
@[simp] theorem beforeTransfer_bus : (beforeTransfer s).bus = s.bus := rfl

@[simp] theorem record_cfg : (record c s).cfg = s.cfg := rfl
@[simp] theorem record_mode : (record c s).mode = s.mode := rfl
@[simp] theorem record_scopeActive : (record c s).scopeActive = s.scopeActive := rfl
@[simp] theorem record_gateViolation : (record c s).gateViolation = s.gateViolation := rfl
@[simp] theorem record_refused : (record c s).refused = s.refused := rfl
@[simp] theorem record_mem : (record c s).mem = s.mem := rfl
@[simp] theorem record_power : (record c s).power = s.power := rfl
@[simp] theorem record_env : (record c s).env = s.env := rfl
@[simp] theorem record_turns : (record c s).turns = s.turns := rfl
@[simp] theorem record_port : (record c s).port = s.port := rfl
@[simp] theorem record_reply : (record c s).reply = s.reply := rfl
@[simp] theorem record_bus : (record c s).bus = s.bus ++ [c] := rfl
end around

@[simp] theorem frameEvents_nil (m : RegMap) (mem : Memory) : frameEvents m [] mem = mem := rfl

/-- A frame event leaves every register that is not sensor-driven as it was. -/
theorem byteAt_frameEvents {m : RegMap} {frames : List RegValue} {mem : Memory} {a : Nat}
    (h : isSensorDriven m a = false) : (frameEvents m frames mem).byteAt a = mem.byteAt a := by
  apply Memory.byteAt_change_of_not_mem
  intro c hc e
  rw [List.mem_filter] at hc
  rw [e, h] at hc
  exact absurd hc.2 (by simp)

theorem wf_frameEvents {m : RegMap} {frames : List RegValue} {mem : Memory} (h : mem.wf = true) :
    (frameEvents m frames mem).wf = true :=
  Memory.wf_change h

/-! ### Reading -/

/-- `MemRead`: it succeeds with the bytes the sensor returns, or it raises; either way S is as the frame events left it. -/
theorem memRead_cases {n : Nat} (op : Byte) (a : RegBase n) (s : State) :
    (∃ b : Vector Byte n, s.env.answer.error = none ∧
      (∀ k (hk : k < n), b[k] = readByte s.env.answer (beforeTransfer s) a.val k) ∧
      memRead op a s = .ok b (record ⟨s.cfg.devAddr, .read, a.val, n, b.toList, none⟩ (beforeTransfer s))) ∨
    (∃ e, s.env.answer.error = some e ∧
      memRead op a s = .stop (.transfer op a.val .read e)
        (record ⟨s.cfg.devAddr, .read, a.val, n, [], some e⟩ (beforeTransfer s))) := by
  cases h : s.env.answer.error with
  | none =>
    refine .inl ⟨Vector.ofFn fun k : Fin n => readByte s.env.answer (beforeTransfer s) a.val k.val, rfl,
      fun k hk => by simp, by simp [memRead, h]⟩
  | some e => exact .inr ⟨e, rfl, by simp [memRead, h]⟩

/-- A read that succeeds, with the bytes named. -/
theorem memRead_ok {n : Nat} (op : Byte) (a : RegBase n) (s : State) (h : s.env.answer.error = none) :
    ∃ b : Vector Byte n, (∀ k (hk : k < n), b[k] = readByte s.env.answer (beforeTransfer s) a.val k) ∧
      memRead op a s = .ok b (record ⟨s.cfg.devAddr, .read, a.val, n, b.toList, none⟩ (beforeTransfer s)) := by
  rcases memRead_cases op a s with ⟨b, _, hb, e⟩ | ⟨e, he, _⟩
  · exact ⟨b, hb, e⟩
  · rw [h] at he; exact absurd he (by simp)

/-- A read that fails. -/
theorem memRead_error {n : Nat} (op : Byte) (a : RegBase n) (s : State) {e : BusError}
    (h : s.env.answer.error = some e) :
    memRead op a s = .stop (.transfer op a.val .read e)
        (record ⟨s.cfg.devAddr, .read, a.val, n, [], some e⟩ (beforeTransfer s)) := by
  simp [memRead, h]

/-- An awake sensor returns what it presents. -/
theorem readByte_awake {ans : BusAnswer} {s : State} {a k : Nat} (h : s.power = .awake) :
    readByte ans s a k = presented s.cfg.rm s.mem (a + k) := by
  simp [readByte, h]

/-! ### Writing -/

section takes
variable (f : Bool) (ans : BusAnswer) (a : Nat) (cells : List Host.Cell) (s : State)

@[simp] theorem sensorTakes_cfg : (sensorTakes f ans a cells s).cfg = s.cfg := by
  unfold sensorTakes; split; · rfl
  split <;> rfl
@[simp] theorem sensorTakes_mode : (sensorTakes f ans a cells s).mode = s.mode := by
  unfold sensorTakes; split; · rfl
  split <;> rfl
@[simp] theorem sensorTakes_scopeActive : (sensorTakes f ans a cells s).scopeActive = s.scopeActive := by
  unfold sensorTakes; split; · rfl
  split <;> rfl
@[simp] theorem sensorTakes_gateViolation : (sensorTakes f ans a cells s).gateViolation = s.gateViolation := by
  unfold sensorTakes; split; · rfl
  split <;> rfl
@[simp] theorem sensorTakes_refused : (sensorTakes f ans a cells s).refused = s.refused := by
  unfold sensorTakes; split; · rfl
  split <;> rfl
@[simp] theorem sensorTakes_env : (sensorTakes f ans a cells s).env = s.env := by
  unfold sensorTakes; split; · rfl
  split <;> rfl
@[simp] theorem sensorTakes_turns : (sensorTakes f ans a cells s).turns = s.turns := by
  unfold sensorTakes; split; · rfl
  split <;> rfl
@[simp] theorem sensorTakes_port : (sensorTakes f ans a cells s).port = s.port := by
  unfold sensorTakes; split; · rfl
  split <;> rfl
@[simp] theorem sensorTakes_reply : (sensorTakes f ans a cells s).reply = s.reply := by
  unfold sensorTakes; split; · rfl
  split <;> rfl
@[simp] theorem sensorTakes_bus : (sensorTakes f ans a cells s).bus = s.bus := by
  unfold sensorTakes; split; · rfl
  split <;> rfl
end takes

/-- A write to another register than PCTL leaves the sensor's power state. -/
theorem sensorTakes_power {f : Bool} {ans : BusAnswer} {a : Nat} {cells : List Host.Cell} {s : State}
    (h : a ≠ s.cfg.rm.pctl.val) : (sensorTakes f ans a cells s).power = s.power := by
  unfold sensorTakes; rw [if_neg h]; split <;> rfl

/-- A write to another register than PCTL at an awake sensor: its bytes are taken one by one. -/
theorem sensorTakes_mem_awake {f : Bool} {ans : BusAnswer} {a : Nat} {cells : List Host.Cell} {s : State}
    (h : a ≠ s.cfg.rm.pctl.val) (hp : s.power = .awake) :
    (sensorTakes f ans a cells s).mem = cells.foldl (takeByte s.cfg.rm ans) s.mem := by
  unfold sensorTakes; rw [if_neg h, if_pos hp]; rfl

/-- A PCTL write stores its byte whatever the power state, and the power state follows it. -/
theorem sensorTakes_pctl {ans : BusAnswer} {v : Byte} {s : State} :
    sensorTakes false ans s.cfg.rm.pctl.val (cellsFrom s.cfg.rm.pctl.val [v]) s =
      (s.withMem (s.mem.write s.cfg.rm.pctl.val v)).withPower (powerAfter s.cfg.rm false v) := by
  simp [sensorTakes, cellsFrom]

/-- `MemWrite`: it succeeds with every byte taken, or it raises with those bytes taken that the environment chose. -/
theorem memWrite_cases {n : Nat} (op : Byte) (a : RegBase n) (v : Vector Byte n) (s : State) :
    (s.env.answer.error = none ∧
      memWrite op a v s = .ok () (record ⟨s.cfg.devAddr, .write, a.val, n, v.toList, none⟩
        (sensorTakes false s.env.answer a.val (cellsFrom a.val v.toList) (beforeTransfer s)))) ∨
    (∃ e, s.env.answer.error = some e ∧
      memWrite op a v s = .stop (.transfer op a.val .write e) (record ⟨s.cfg.devAddr, .write, a.val, n, v.toList, some e⟩
        (sensorTakes true s.env.answer a.val (cellsTaken a.val v.toList s.env.answer.taken) (beforeTransfer s)))) := by
  cases h : s.env.answer.error with
  | none => exact .inl ⟨rfl, by simp [memWrite, h]⟩
  | some e => exact .inr ⟨e, rfl, by simp [memWrite, h]⟩

theorem memWrite_ok {n : Nat} (op : Byte) (a : RegBase n) (v : Vector Byte n) (s : State)
    (h : s.env.answer.error = none) :
    memWrite op a v s = .ok () (record ⟨s.cfg.devAddr, .write, a.val, n, v.toList, none⟩
      (sensorTakes false s.env.answer a.val (cellsFrom a.val v.toList) (beforeTransfer s))) := by
  simp [memWrite, h]

theorem memWrite_error {n : Nat} (op : Byte) (a : RegBase n) (v : Vector Byte n) (s : State) {e : BusError}
    (h : s.env.answer.error = some e) :
    memWrite op a v s = .stop (.transfer op a.val .write e) (record ⟨s.cfg.devAddr, .write, a.val, n, v.toList, some e⟩
      (sensorTakes true s.env.answer a.val (cellsTaken a.val v.toList s.env.answer.taken) (beforeTransfer s))) := by
  simp [memWrite, h]

/-- A byte taken at a stored register is stored; no other register changes. -/
theorem takeByte_stored {m : RegMap} {ans : BusAnswer} {mem : Memory} {a : Nat} {v : Byte} (h : isStored m a = true) :
    takeByte m ans mem (a, v) = mem.write a v := by
  simp [takeByte, classOf, h]

/-- The addresses an n-byte write names lie in the space. -/
theorem cellsFrom_lt {vs : List Byte} {a : Nat} (h : a + vs.length ≤ 256) : ∀ c ∈ cellsFrom a vs, c.1 < 256 := by
  induction vs generalizing a with
  | nil => simp [cellsFrom]
  | cons v vs ih =>
    simp only [List.length_cons] at h
    simp only [cellsFrom, List.mem_cons, forall_eq_or_imp]
    exact ⟨by omega, ih (by omega)⟩

/-- The bytes taken in a failed write are some of the bytes written. -/
theorem cellsTaken_subset (vs : List Byte) (a : Nat) (ts : List Bool) :
    ∀ c ∈ cellsTaken a vs ts, c ∈ cellsFrom a vs := by
  induction vs generalizing a ts with
  | nil => simp [cellsTaken]
  | cons v vs ih =>
    intro c hc
    simp only [cellsTaken, List.mem_append] at hc
    simp only [cellsFrom, List.mem_cons]
    rcases hc with hc | hc
    · split at hc <;> simp_all
    · exact .inr (ih _ _ c hc)

theorem wf_resetFlags {m : RegMap} {ans : BusAnswer} {mem : Memory} {c : Host.Cell} (h : mem.wf = true) :
    (resetFlags m ans mem c).wf = true := by
  unfold resetFlags
  split
  · exact wf_clearStatBit h
  · split
    · exact wf_clearStatBit h
    · split
      · exact wf_clearPixelFlags (wf_clearStatBit (wf_clearStatBit h))
      · exact Memory.wf_change h

theorem wf_takeByte {m : RegMap} {ans : BusAnswer} {mem : Memory} {c : Host.Cell} (h : mem.wf = true)
    (hc : c.1 < 256) : (takeByte m ans mem c).wf = true := by
  unfold takeByte
  split
  · exact Memory.wf_write h hc
  · exact wf_resetFlags h
  · exact Memory.wf_change h
  · exact Memory.wf_change h

theorem wf_foldl_takeByte {m : RegMap} {ans : BusAnswer} {cells : List Host.Cell} {mem : Memory} (h : mem.wf = true)
    (hc : ∀ c ∈ cells, c.1 < 256) : (cells.foldl (takeByte m ans) mem).wf = true := by
  induction cells generalizing mem with
  | nil => exact h
  | cons c cells ih =>
    exact ih (wf_takeByte h (hc c (by simp))) (fun d hd => hc d (by simp [hd]))

theorem wf_foldl_write {cells : List Host.Cell} {mem : Memory} (h : mem.wf = true)
    (hc : ∀ c ∈ cells, c.1 < 256) : (cells.foldl (fun m c => m.write c.1 c.2) mem).wf = true := by
  induction cells generalizing mem with
  | nil => exact h
  | cons c cells ih =>
    exact ih (Memory.wf_write h (hc c (by simp))) (fun d hd => hc d (by simp [hd]))

/-- Whatever a write does at the sensor, the register space keeps its canonical form. -/
theorem wf_sensorTakes {f : Bool} {ans : BusAnswer} {a : Nat} {cells : List Host.Cell} {s : State}
    (h : s.mem.wf = true) (hc : ∀ c ∈ cells, c.1 < 256) : (sensorTakes f ans a cells s).mem.wf = true := by
  unfold sensorTakes
  split
  · exact wf_foldl_write h hc
  · split
    · exact wf_foldl_takeByte h hc
    · exact Memory.wf_change h

/-! ### The gate -/

/-- The gate: on with nothing changed when Awake; refused, or on with the fault bit set, when Asleep (R140 to R142). -/
theorem gateCheck_cases (s : State) :
    (s.mode = .awake ∧ gateCheck s = .ok () s) ∨
    (s.mode = .asleep ∧ s.cfg.policy = .issue ∧ gateCheck s = .ok () (s.withGate true)) ∨
    (s.mode = .asleep ∧ s.cfg.policy = .refuse ∧ gateCheck s = .stop .gate s) := by
  unfold gateCheck
  cases hm : s.mode <;> cases hp : s.cfg.policy <;> simp

/-- Encoding a temperature, or the error that says which. -/
theorem encodeOrRaise_cases (t : TempIn) (p : Profile) (f : Option LimitField) (s : State) :
    (∃ b, encodeTemperature t p = some b ∧ encodeOrRaise t p f s = .ok b s) ∨
    (t = .nan ∧ encodeOrRaise t p f s = .stop (.range p f) s) := by
  unfold encodeOrRaise
  cases t <;> simp [encodeTemperature, encodeValue]

/-! ### What holds of a command's body, step by step -/

/-- Where a command has come to, `Q` holds of its value and state, or `E` of its ending and state. -/
def Res.Holds {α : Type} (Q : α → State → Prop) (E : Stop → State → Prop) : Res α → Prop
  | .ok a s => Q a s
  | .stop e s => E e s

@[simp] theorem Res.holds_ok {α : Type} {Q : α → State → Prop} {E : Stop → State → Prop} (a : α) (s : State) :
    (Res.ok a s).Holds Q E ↔ Q a s := Iff.rfl

@[simp] theorem Res.holds_stop {α : Type} {Q : α → State → Prop} {E : Stop → State → Prop} (e : Stop) (s : State) :
    (Res.stop e s : Res α).Holds Q E ↔ E e s := Iff.rfl

theorem Res.holds_andThen {α β : Type} {Q : β → State → Prop} {E : Stop → State → Prop} {r : Res α}
    {k : α → State → Res β} (h : r.Holds (fun a s => (k a s).Holds Q E) E) : (r.andThen k).Holds Q E := by
  cases r <;> exact h

theorem Res.holds_nothing {Q : Value → State → Prop} {E : Stop → State → Prop} {r : Res Unit}
    (h : r.Holds (fun _ s => Q .nothing s) E) : (nothing r).Holds Q E := by
  cases r <;> exact h

/-- What holds of a command's answer holds of its outcome. -/
theorem conclude_of_holds {P : State → Prop} {r : Res Value}
    (h : r.Holds (fun v s => P (deliver v s)) (fun e s => P (raise e s))) : P (conclude r) := by
  cases r <;> exact h

theorem memRead_holds {n : Nat} {op : Byte} {a : RegBase n} {s : State} {Q : Vector Byte n → State → Prop}
    {E : Stop → State → Prop}
    (hok : ∀ b : Vector Byte n, s.env.answer.error = none →
      (∀ k (hk : k < n), b[k] = readByte s.env.answer (beforeTransfer s) a.val k) →
      Q b (record ⟨s.cfg.devAddr, .read, a.val, n, b.toList, none⟩ (beforeTransfer s)))
    (herr : ∀ e, s.env.answer.error = some e → E (.transfer op a.val .read e)
      (record ⟨s.cfg.devAddr, .read, a.val, n, [], some e⟩ (beforeTransfer s))) : (memRead op a s).Holds Q E := by
  rcases memRead_cases op a s with ⟨b, h, hb, e⟩ | ⟨x, h, e⟩ <;> rw [e]
  · exact hok b h hb
  · exact herr x h

theorem memWrite_holds {n : Nat} {op : Byte} {a : RegBase n} {v : Vector Byte n} {s : State}
    {Q : Unit → State → Prop} {E : Stop → State → Prop}
    (hok : s.env.answer.error = none → Q () (record ⟨s.cfg.devAddr, .write, a.val, n, v.toList, none⟩
      (sensorTakes false s.env.answer a.val (cellsFrom a.val v.toList) (beforeTransfer s))))
    (herr : ∀ e, s.env.answer.error = some e → E (.transfer op a.val .write e)
      (record ⟨s.cfg.devAddr, .write, a.val, n, v.toList, some e⟩
        (sensorTakes true s.env.answer a.val (cellsTaken a.val v.toList s.env.answer.taken) (beforeTransfer s)))) :
    (memWrite op a v s).Holds Q E := by
  rcases memWrite_cases op a v s with ⟨h, e⟩ | ⟨x, h, e⟩ <;> rw [e]
  · exact hok h
  · exact herr x h

theorem gateCheck_holds {s : State} {Q : Unit → State → Prop} {E : Stop → State → Prop}
    (hawake : s.mode = .awake → Q () s) (hissue : s.mode = .asleep → s.cfg.policy = .issue → Q () (s.withGate true))
    (hrefuse : s.mode = .asleep → s.cfg.policy = .refuse → E .gate s) : (gateCheck s).Holds Q E := by
  rcases gateCheck_cases s with ⟨h, e⟩ | ⟨h, h2, e⟩ | ⟨h, h2, e⟩ <;> rw [e]
  · exact hawake h
  · exact hissue h h2
  · exact hrefuse h h2

theorem encodeOrRaise_holds {t : TempIn} {p : Profile} {f : Option LimitField} {s : State}
    {Q : Pair → State → Prop} {E : Stop → State → Prop} (hok : ∀ b, encodeTemperature t p = some b → Q b s)
    (hnan : t = .nan → E (.range p f) s) : (encodeOrRaise t p f s).Holds Q E := by
  rcases encodeOrRaise_cases t p f s with ⟨b, h, e⟩ | ⟨h, e⟩ <;> rw [e]
  · exact hok b h
  · exact hnan h

end Sys2Proof.Machine
end

