-- ==== Sys2Proof/Laws/HostProgram.lean ====
section
/-! SUPPORT. What a step and the issuing of one command can do, said once for the host's constructs. -/

namespace Sys2Proof.Machine

/-- Every instruction ends in a next state. -/
theorem exec_next (i : Instr) (s : State) : ∃ t, exec i s = .next t := by
  cases i <;> exact ⟨_, rfl⟩

/-! ### The step, by whose it is -/

theorem step_frame {s : State} {changes : List RegValue} {rest : List Turn} (h : s.turns = .frame changes :: rest) :
    step s = .next (frameStep changes (s.withTurns rest)) := by
  simp only [step, h]

theorem step_idle {s : State} (h : s.turns = []) (hp : s.port = []) : step s = .next (idleStep s) := by
  simp only [step, h, hp]

/-- The block's turn: it steps, and its turn is taken off the list. -/
theorem step_block {s : State} {c : Command} {rest : List Command} (hp : s.port = c :: rest)
    (h : s.environmentMoves = false) : step s = blockStep (s.withTurns s.turns.tail) := by
  unfold step
  unfold State.environmentMoves at h
  split
  · simp_all
  · rename_i e; rw [e]; rfl
  · rename_i e
    have he : s.withTurns s.turns.tail = s := by rw [e]; cases s; simp_all [State.withTurns]
    simp only [hp, he]

/-- A step is a frame event, listed or at an idle port; or the block, finding nothing on the port, waits; or it takes the
port's command. -/
theorem step_cases (s : State) :
    (∃ changes env turns, step s = .next (((frameStep changes s).withEnv env).withTurns turns)) ∨
    (∃ turns, s.port = [] ∧ step s = .next (s.withTurns turns)) ∨
    ∃ c rest, s.port = c :: rest ∧ s.environmentMoves = false ∧ step s = blockStep (s.withTurns s.turns.tail) := by
  cases h : s.turns with
  | nil =>
    cases hp : s.port with
    | nil =>
      refine .inl ⟨Config.freeFrame s.env.count, { s.env with count := s.env.count + 1 }, [], ?_⟩
      rw [step_idle h hp]
      have e : idleStep s = (idleStep s).withTurns [] := by
        cases s; simp_all [idleStep, frameStep, State.withTurns, State.withEnv, State.withMem]
      rw [e]; rfl
    | cons c rest =>
      have hm : s.environmentMoves = false := by simp [State.environmentMoves, h]
      exact .inr (.inr ⟨c, rest, rfl, hm, by rw [step_block hp hm, h]⟩)
  | cons x rest =>
    cases x with
    | frame changes => exact .inl ⟨changes, s.env, rest, by rw [step_frame h]; rfl⟩
    | block =>
      have hm : s.environmentMoves = false := by simp [State.environmentMoves, h]
      cases hp : s.port with
      | nil => exact .inr (.inl ⟨rest, rfl, by simp [step, h, blockStep, hp]⟩)
      | cons c rest' => exact .inr (.inr ⟨c, rest', rfl, hm, by rw [step_block hp hm, h]⟩)

/-- Waiting for the block's step: the frame events that come first change the register space, sensor-driven registers alone,
and take their turns; then it is the block's step. -/
theorem stepsToBlock_cases (turns : List Turn) (s : State) (h : s.turns = turns) :
    ∃ mem turns', stepsToBlock turns s = step ((s.withMem mem).withTurns turns') ∧
      ((s.withMem mem).withTurns turns').environmentMoves = false ∧
      (∀ a, isSensorDriven s.cfg.rm a = false ∨ s.environmentMoves = false → mem.byteAt a = s.mem.byteAt a) := by
  induction turns generalizing s with
  | nil => exact ⟨s.mem, s.turns, rfl, by simp [State.environmentMoves, h], fun _ _ => rfl⟩
  | cons x rest ih =>
    cases x with
    | block => exact ⟨s.mem, s.turns, rfl, by simp [State.environmentMoves, h], fun _ _ => rfl⟩
    | frame changes =>
      have hm : s.environmentMoves = true := by simp [State.environmentMoves, h]
      obtain ⟨mem, turns', e, hm', hb⟩ := ih (frameStep changes (s.withTurns rest)) rfl
      refine ⟨mem, turns', ?_, hm', fun a ha => ?_⟩
      · simp only [stepsToBlock, step_frame h, e]; rfl
      · rcases ha with ha | ha
        · rw [hb a (.inl ha)]; exact byteAt_frameEvents ha
        · rw [hm] at ha; cases ha

/-! ### Issuing a command -/

/-- A well-formed command decodes, or its code is reserved. -/
theorem decode_of_wellFormed {c : Command} (h : c.wellFormed = true) :
    (∃ i, decode c = .ok i) ∨ decode c = .error (.reservedCode c.op) := by
  obtain ⟨op, r⟩ := c
  simp only [Command.wellFormed] at h
  unfold decode
  split
  case h_39 => exact .inr rfl
  all_goals
    subst_vars
    simp only [operandShape, beq_iff_eq] at h
    cases r <;> simp only [OperandRecord.shape, reduceCtorEq] at h
    exact .inl ⟨_, rfl⟩

/-- Issuing a well-formed command: after the frame events that come first it is performed, from a port that carries nothing
else, or its code is reserved and it is refused; either way the host has the status of the state it leaves. -/
theorem issue_cases {c : Command} (h : c.wellFormed = true) (s : State) :
    ∃ mem turns, (∀ a, isSensorDriven s.cfg.rm a = false ∨ s.environmentMoves = false → mem.byteAt a = s.mem.byteAt a) ∧
    ((∃ i t, decode c = .ok i ∧ exec i (((s.withMem mem).withTurns turns).withPort []) = .next t ∧
      issue c s = some (t, t.lastStatus)) ∨
    (decode c = .error (.reservedCode c.op) ∧
      issue c s = some (illegalCommand (((s.withMem mem).withTurns turns).withPort []), .illegalCommand))) := by
  obtain ⟨mem, turns, e, hm, hb⟩ := stepsToBlock_cases s.turns (s.withPort [c]) rfl
  refine ⟨mem, turns.tail, hb, ?_⟩
  have hs := step_block (s := ((s.withPort [c]).withMem mem).withTurns turns) (c := c) (rest := []) rfl hm
  rcases decode_of_wellFormed h with ⟨i, hd⟩ | hd
  · obtain ⟨t, ht⟩ := exec_next i (((s.withMem mem).withTurns turns.tail).withPort [])
    refine .inl ⟨i, t, hd, ht, ?_⟩
    have hx : stepsToBlock s.turns (s.withPort [c]) = .next t := by
      rw [e, hs]
      simp only [blockStep, State.withTurns, State.withMem, State.withPort, hd]
      exact ht
    simp only [issue, hx]
  · refine .inr ⟨hd, ?_⟩
    have hx : stepsToBlock s.turns (s.withPort [c]) =
        .next (illegalCommand (((s.withMem mem).withTurns turns.tail).withPort [])) := by
      rw [e, hs]
      simp only [blockStep, State.withTurns, State.withMem, State.withPort, hd]
    simp only [issue, hx]
    rfl

end Sys2Proof.Machine
end

