-- ==== Sys2Proof/Laws/Operands.lean ====
section
/-! SUPPORT. The arithmetic of the temperature codec: fields as integers, rounding, packing, and the grids by index. -/

namespace Sys2Proof.Machine

/-- The pair as a number, low byte first. -/
theorem raw16_toNat (b : Pair) : (raw16 b).toNat = b[0].toNat + 256 * b[1].toNat := by
  have h : raw16 b = BitVec.append b[1] b[0] := by
    have := b[0].isLt
    unfold raw16
    apply BitVec.eq_of_getLsbD_eq
    intro i hi
    have e : (BitVec.append b[1] b[0]).getLsbD i = if i < 8 then b[0].getLsbD i else b[1].getLsbD (i - 8) := by
      simpa using BitVec.getLsbD_append (x := b[1]) (y := b[0]) (i := i)
    rw [e]
    by_cases h8 : i < 8
    · simp [h8, hi]
    · have h9 : b[0].getLsbD i = false := BitVec.getLsbD_of_ge _ _ (by omega)
      simp [h8, hi, h9]
  rw [h]
  have := BitVec.toNat_append (x := b[1]) (y := b[0])
  simp only [HAppend.hAppend] at this
  rw [this, Nat.shiftLeft_eq, Nat.mul_comm, ← Nat.two_pow_add_eq_or_of_lt b[0].isLt]
  omega

/-- The field is below 2^w. -/
theorem field_lt (b : Pair) (p : Profile) : field b p < 2 ^ width p := Nat.mod_lt _ (by positivity)

/-- The field's integer by cases on its top bit. -/
theorem fieldValue_pixel (b : Pair) :
    fieldValue b .pixel = if field b .pixel < 2048 then (field b .pixel : Int) else field b .pixel - 4096 := by
  have h := field_lt b .pixel
  have e : (field b .pixel).testBit 11 = decide (2048 ≤ field b .pixel) := by
    simp only [width] at h
    rw [Nat.testBit_eq_decide_div_mod_eq]
    congr 1; apply propext; constructor <;> intro <;> omega
  simp only [fieldValue, signed, width, sext, if_true, Nat.add_one_sub_one, e, decide_eq_true_eq]
  split <;> split <;> omega

theorem fieldValue_device (b : Pair) :
    fieldValue b .device = if field b .device < 1024 then (field b .device : Int) else field b .device - 2048 := by
  have h := field_lt b .device
  have e : (field b .device).testBit 10 = decide (1024 ≤ field b .device) := by
    simp only [width] at h
    rw [Nat.testBit_eq_decide_div_mod_eq]
    congr 1; apply propext; constructor <;> intro <;> omega
  simp only [fieldValue, signed, width, sext, if_true, Nat.add_one_sub_one, e, decide_eq_true_eq]
  split <;> split <;> omega

theorem fieldValue_hyst (b : Pair) : fieldValue b .hyst = field b .hyst := by
  simp [fieldValue, signed]

/-- The decoded integer lies in the profile's range. -/
theorem fieldValue_range (b : Pair) (p : Profile) : lo p ≤ fieldValue b p ∧ fieldValue b p ≤ hi p := by
  have h := field_lt b p
  cases p <;> simp only [width] at h <;> simp only [lo, hi, fieldValue_pixel, fieldValue_device, fieldValue_hyst]
  · split <;> omega
  · split <;> omega
  · omega

/-- Rounding is to a nearest integer. -/
theorem roundHalfEven_near (q : Rat) : |q - roundHalfEven q| ≤ 1 / 2 := by
  have h1 : (q.floor : Rat) ≤ q := Rat.floor_le q
  have h2 : q < q.floor + 1 := by exact_mod_cast Rat.lt_floor_add_one q
  unfold roundHalfEven
  simp only
  split
  · rw [abs_le]; constructor <;> linarith
  · split
    · push_cast; rw [abs_le]; constructor <;> linarith
    · split
      · rw [abs_le]; constructor <;> linarith
      · push_cast; rw [abs_le]; constructor <;> linarith

/-- An integer rounds to itself. -/
@[simp] theorem roundHalfEven_int (n : Int) : roundHalfEven (n : Rat) = n := by
  have : ((n : Rat).floor) = n := Rat.floor_intCast n
  simp [roundHalfEven, this]

/-- The packed pair holds the w-bit pattern, with the unused bits 0. -/
theorem raw16_packField (n : Int) (p : Profile) : (raw16 (packField n p)).toNat = (n % 2 ^ width p).toNat := by
  have h : (n % 2 ^ width p).toNat < 4096 := by
    have h0 : 0 ≤ n % 2 ^ width p := Int.emod_nonneg _ (by positivity)
    have h1 : n % 2 ^ width p < 2 ^ width p := Int.emod_lt_of_pos _ (by positivity)
    have h2 : (2 : Int) ^ width p ≤ 4096 := by cases p <;> simp [width]
    omega
  rw [raw16_toNat]
  simp only [packField, Vector.getElem_mk, List.getElem_toArray, List.getElem_cons_zero, List.getElem_cons_succ,
    BitVec.toNat_ofNat]
  omega

/-- What was packed is read back, for an integer of the profile's range. -/
theorem fieldValue_packField (n : Int) (p : Profile) (h1 : lo p ≤ n) (h2 : n ≤ hi p) :
    fieldValue (packField n p) p = n := by
  have e : field (packField n p) p = (n % 2 ^ width p).toNat := by
    rw [field, raw16_packField]
    apply Nat.mod_eq_of_lt
    have h0 : 0 ≤ n % 2 ^ width p := Int.emod_nonneg _ (by positivity)
    have h1 : n % 2 ^ width p < 2 ^ width p := Int.emod_lt_of_pos _ (by positivity)
    zify
    rw [Int.toNat_of_nonneg h0]
    exact h1
  cases p <;> simp only [lo, hi] at h1 h2 <;>
    simp only [fieldValue_pixel, fieldValue_device, fieldValue_hyst, e, width]
  · split <;> omega
  · split <;> omega
  · omega

theorem clamp_range {n a b : Int} (h : a ≤ b) : a ≤ clamp n a b ∧ clamp n a b ≤ b := by
  unfold clamp; split
  · omega
  · split <;> omega

theorem lo_le_hi (p : Profile) : lo p ≤ hi p := by cases p <;> decide

theorem lsb_pos (p : Profile) : 0 < lsb p := by cases p <;> norm_num [lsb]

/-- A grid holds at row r, column c what its function gives pixel 8r + c. -/
@[simp] theorem gridOf_getElem {α : Type} (f : Fin 64 → α) (r c : Nat) (hr : r < 8) (hc : c < 8) :
    (gridOf f)[r][c] = f ⟨8 * r + c, by omega⟩ := by
  simp [gridOf]

end Sys2Proof.Machine
end

