-- ==== Sys2Proof/Laws/PerInstr.lean ====
section
/-! SUPPORT. Facts about each instruction as syntax, one lemma per constructor. -/

namespace Sys2Proof.Laws.EncodesWellFormed

/-- The command a host issues for the instruction has an assigned code, and its operand record has the shape the code fixes
(R70 to R79). -/
def Statement (i : Instr) : Prop := (operandShape (encode i).op).isSome = true ∧ (encode i).wellFormed = true

theorem dectPix (b : Pair) : Statement (.dectPix b) := ⟨rfl, rfl⟩
theorem dectDev (b : Pair) : Statement (.dectDev b) := ⟨rfl, rfl⟩
theorem dectHys (b : Pair) : Statement (.dectHys b) := ⟨rfl, rfl⟩
theorem enctPix (t : TempIn) : Statement (.enctPix t) := ⟨rfl, rfl⟩
theorem enctDev (t : TempIn) : Statement (.enctDev t) := ⟨rfl, rfl⟩
theorem enctHys (t : TempIn) : Statement (.enctHys t) := ⟨rfl, rfl⟩
theorem decpf (b : FlagBytes) : Statement (.decpf b) := ⟨rfl, rfl⟩
theorem deceFr (v : Byte) : Statement (.deceFr v) := ⟨rfl, rfl⟩
theorem deceMa (v : Byte) : Statement (.deceMa v) := ⟨rfl, rfl⟩
theorem deceDm (v : Byte) : Statement (.deceDm v) := ⟨rfl, rfl⟩
theorem deceIe (v : Byte) : Statement (.deceIe v) := ⟨rfl, rfl⟩
theorem deceIa (v : Byte) : Statement (.deceIa v) := ⟨rfl, rfl⟩
theorem parseFr (str : String) : Statement (.parseFr str) := ⟨rfl, rfl⟩
theorem enceFr (x : FrameRate) (old : Byte) : Statement (.enceFr x old) := ⟨rfl, rfl⟩
theorem enceMa (x : Bool) (old : Byte) : Statement (.enceMa x old) := ⟨rfl, rfl⟩
theorem enceDm (x : Mode) : Statement (.enceDm x) := ⟨rfl, rfl⟩
theorem enceIe (x : Bool) (old : Byte) : Statement (.enceIe x old) := ⟨rfl, rfl⟩
theorem enceIa (x : Bool) (old : Byte) : Statement (.enceIa x old) := ⟨rfl, rfl⟩
theorem wake : Statement (.wake) := ⟨rfl, rfl⟩
theorem sleep : Statement (.sleep) := ⟨rfl, rfl⟩
theorem asleep : Statement (.asleep) := ⟨rfl, rfl⟩
theorem scopeEnter : Statement (.scopeEnter) := ⟨rfl, rfl⟩
theorem scopeExit : Statement (.scopeExit) := ⟨rfl, rfl⟩
theorem image : Statement (.image) := ⟨rfl, rfl⟩
theorem devtemp : Statement (.devtemp) := ⟨rfl, rfl⟩
theorem rdFr : Statement (.rdFr) := ⟨rfl, rfl⟩
theorem wrFr (x : FrameRate) : Statement (.wrFr x) := ⟨rfl, rfl⟩
theorem rdMa : Statement (.rdMa) := ⟨rfl, rfl⟩
theorem wrMa (x : Bool) : Statement (.wrMa x) := ⟨rfl, rfl⟩
theorem rdIcfg : Statement (.rdIcfg) := ⟨rfl, rfl⟩
theorem wrIcfg (c : ICfgIn) : Statement (.wrIcfg c) := ⟨rfl, rfl⟩
theorem disInt : Statement (.disInt) := ⟨rfl, rfl⟩
theorem rdInt : Statement (.rdInt) := ⟨rfl, rfl⟩
theorem rdPxint : Statement (.rdPxint) := ⟨rfl, rfl⟩
theorem rdOvf : Statement (.rdOvf) := ⟨rfl, rfl⟩
theorem rstInt : Statement (.rstInt) := ⟨rfl, rfl⟩
theorem rstOvf : Statement (.rstOvf) := ⟨rfl, rfl⟩
theorem rstFlags : Statement (.rstFlags) := ⟨rfl, rfl⟩

end Sys2Proof.Laws.EncodesWellFormed
end

