-- ==== Sys2Proof/Laws/RegisterMap.lean ====
section
/-! SUPPORT. What a register map without overlaps gives: each register is in one named span at most, and so in one class. -/

namespace Sys2Proof.Machine

/-- Register `a` is one of the i-th named register's bytes, in the order of `RegMap.spans`. -/
def inSpan (m : RegMap) (a : Nat) (i : Fin 13) : Prop :=
  (m.spans.get i).1 ≤ a ∧ a < (m.spans.get i).1 + (m.spans.get i).2

/-- No register is in two spans. -/
theorem inSpan_unique {m : RegMap} (h : m.registersApart) {a : Nat} {i j : Fin 13} (hi : inSpan m a i)
    (hj : inSpan m a j) : i = j := by
  by_contra hne
  have key : ∀ x y : Fin 13, x < y → inSpan m a x → inSpan m a y → False := by
    intro x y hxy hx hy
    have := List.pairwise_iff_get.mp h x y hxy
    obtain ⟨h1, h2⟩ := hx
    obtain ⟨h3, h4⟩ := hy
    rcases this with h5 | h5 <;> omega
  rcases lt_or_gt_of_ne hne with hlt | hgt
  · exact key i j hlt hi hj
  · exact key j i hgt hj hi

/-- The spans by name. -/
theorem inSpan_pctl (m : RegMap) (a : Nat) : inSpan m a 0 ↔ a = m.pctl.val := by
  change m.pctl.val ≤ a ∧ a < m.pctl.val + 1 ↔ _; omega
theorem inSpan_rst (m : RegMap) (a : Nat) : inSpan m a 1 ↔ a = m.rst.val := by
  change m.rst.val ≤ a ∧ a < m.rst.val + 1 ↔ _; omega
theorem inSpan_fpsc (m : RegMap) (a : Nat) : inSpan m a 2 ↔ a = m.fpsc.val := by
  change m.fpsc.val ≤ a ∧ a < m.fpsc.val + 1 ↔ _; omega
theorem inSpan_intc (m : RegMap) (a : Nat) : inSpan m a 3 ↔ a = m.intc.val := by
  change m.intc.val ≤ a ∧ a < m.intc.val + 1 ↔ _; omega
theorem inSpan_stat (m : RegMap) (a : Nat) : inSpan m a 4 ↔ a = m.stat.val := by
  change m.stat.val ≤ a ∧ a < m.stat.val + 1 ↔ _; omega
theorem inSpan_sclr (m : RegMap) (a : Nat) : inSpan m a 5 ↔ a = m.sclr.val := by
  change m.sclr.val ≤ a ∧ a < m.sclr.val + 1 ↔ _; omega
theorem inSpan_ave (m : RegMap) (a : Nat) : inSpan m a 6 ↔ a = m.ave.val := by
  change m.ave.val ≤ a ∧ a < m.ave.val + 1 ↔ _; omega
theorem inSpan_inth (m : RegMap) (a : Nat) : inSpan m a 7 ↔ within a m.inth.val 2 = true := by
  change m.inth.val ≤ a ∧ a < m.inth.val + 2 ↔ _; simp [within]
theorem inSpan_intl (m : RegMap) (a : Nat) : inSpan m a 8 ↔ within a m.intl.val 2 = true := by
  change m.intl.val ≤ a ∧ a < m.intl.val + 2 ↔ _; simp [within]
theorem inSpan_ihys (m : RegMap) (a : Nat) : inSpan m a 9 ↔ within a m.ihys.val 2 = true := by
  change m.ihys.val ≤ a ∧ a < m.ihys.val + 2 ↔ _; simp [within]
theorem inSpan_tth (m : RegMap) (a : Nat) : inSpan m a 10 ↔ within a m.tth.val 2 = true := by
  change m.tth.val ≤ a ∧ a < m.tth.val + 2 ↔ _; simp [within]
theorem inSpan_pxf (m : RegMap) (a : Nat) : inSpan m a 11 ↔ within a m.pxfBase.val 8 = true := by
  change m.pxfBase.val ≤ a ∧ a < m.pxfBase.val + 8 ↔ _; simp [within]
theorem inSpan_pix (m : RegMap) (a : Nat) : inSpan m a 12 ↔ within a m.pixBase.val 128 = true := by
  change m.pixBase.val ≤ a ∧ a < m.pixBase.val + 128 ↔ _; simp [within]

/-- Class C by spans. -/
theorem isStored_iff (m : RegMap) (a : Nat) : isStored m a = true ↔
    ∃ i : Fin 13, inSpan m a i ∧ (i = 0 ∨ i = 2 ∨ i = 3 ∨ i = 6 ∨ i = 7 ∨ i = 8 ∨ i = 9) := by
  simp only [and_or_left, exists_or, exists_eq_right, inSpan_pctl, inSpan_fpsc, inSpan_intc, inSpan_ave, inSpan_inth,
    inSpan_intl, inSpan_ihys, isStored, Bool.or_eq_true, beq_iff_eq]
  tauto

/-- Class D by spans. -/
theorem isSensorDriven_iff (m : RegMap) (a : Nat) : isSensorDriven m a = true ↔
    ∃ i : Fin 13, inSpan m a i ∧ (i = 4 ∨ i = 10 ∨ i = 11 ∨ i = 12) := by
  simp only [and_or_left, exists_or, exists_eq_right, inSpan_stat, inSpan_tth, inSpan_pxf, inSpan_pix, isSensorDriven,
    Bool.or_eq_true, beq_iff_eq]
  tauto

/-- Class X by spans. -/
theorem isReset_iff (m : RegMap) (a : Nat) : isReset m a = true ↔
    ∃ i : Fin 13, inSpan m a i ∧ (i = 1 ∨ i = 5) := by
  simp only [and_or_left, exists_or, exists_eq_right, inSpan_rst, inSpan_sclr, isReset, Bool.or_eq_true, beq_iff_eq]
  tauto

/-- The stored registers are not sensor-driven. -/
theorem not_sensorDriven_of_stored {m : RegMap} (h : m.registersApart) {a : Nat} (ha : isStored m a = true) :
    isSensorDriven m a = false := by
  by_contra hd
  obtain ⟨i, hi, hi'⟩ := (isStored_iff m a).mp ha
  obtain ⟨j, hj, hj'⟩ := (isSensorDriven_iff m a).mp (by simpa using hd)
  have := inSpan_unique h hi hj
  subst this
  rcases hj' with e | e | e | e <;> subst e <;> simp at hi'

/-- The status-reset registers are neither stored nor sensor-driven, so they are of class X. -/
theorem classOf_reset {m : RegMap} (h : m.registersApart) {a : Nat} (ha : isReset m a = true) :
    isSensorDriven m a = false ∧ isStored m a = false ∧ classOf m a = .reset := by
  obtain ⟨i, hi, hi'⟩ := (isReset_iff m a).mp ha
  have h1 : isSensorDriven m a = false := by
    by_contra hd
    obtain ⟨j, hj, hj'⟩ := (isSensorDriven_iff m a).mp (by simpa using hd)
    have := inSpan_unique h hi hj
    subst this
    rcases hi' with e | e <;> subst e <;> simp at hj'
  have h2 : isStored m a = false := by
    by_contra hd
    obtain ⟨j, hj, hj'⟩ := (isStored_iff m a).mp (by simpa using hd)
    have := inSpan_unique h hi hj
    subst this
    rcases hi' with e | e <;> subst e <;> simp at hj'
  exact ⟨h1, h2, by simp [classOf, h1, h2, ha]⟩

/-- The stored registers are of class C. -/
theorem classOf_stored {m : RegMap} {a : Nat} (ha : isStored m a = true) : classOf m a = .stored := by
  simp [classOf, ha]

@[simp] theorem isStored_pctl (m : RegMap) : isStored m m.pctl.val = true := by simp [isStored]
@[simp] theorem isStored_fpsc (m : RegMap) : isStored m m.fpsc.val = true := by simp [isStored]
@[simp] theorem isStored_ave (m : RegMap) : isStored m m.ave.val = true := by simp [isStored]
@[simp] theorem isStored_intc (m : RegMap) : isStored m m.intc.val = true := by simp [isStored]
@[simp] theorem isSensorDriven_stat (m : RegMap) : isSensorDriven m m.stat.val = true := by simp [isSensorDriven]

theorem isStored_inth (m : RegMap) {k : Nat} (h : k < 2) : isStored m (m.inth.val + k) = true := by
  simp [isStored, within, h]

theorem isStored_intl (m : RegMap) {k : Nat} (h : k < 2) : isStored m (m.intl.val + k) = true := by
  simp [isStored, within, h]

theorem isStored_ihys (m : RegMap) {k : Nat} (h : k < 2) : isStored m (m.ihys.val + k) = true := by
  simp [isStored, within, h]

/-- A register that is not sensor-driven is not STAT. -/
theorem ne_stat_of_not_sensorDriven {m : RegMap} {a : Nat} (h : isSensorDriven m a = false) : a ≠ m.stat.val := by
  rintro rfl; simp at h

/-- The reset patterns go to class X registers. -/
theorem patterns_isReset {m : RegMap} (h : m.patternsOnResetRegisters) :
    isReset m m.rstIntPat.1.val = true ∧ isReset m m.rstOvfPat.1.val = true ∧ isReset m m.rstAllPat.1.val = true := by
  obtain ⟨h1, h2, h3⟩ := h
  refine ⟨?_, ?_, ?_⟩ <;> simp only [isReset, Bool.or_eq_true, beq_iff_eq]
  · rcases h1 with h | h <;> simp [h]
  · rcases h2 with h | h <;> simp [h]
  · rcases h3 with h | h <;> simp [h]

end Sys2Proof.Machine
end

