-- ==== Sys2Proof/Laws/Transfers.lean ====
section
/-! SUPPORT. What a whole write does to the register space at an awake sensor, register by register: to stored registers,
and to the status-reset registers with a reset pattern. -/

namespace Sys2Proof.Machine

/-- The addresses an n-byte write names. -/
theorem cellsFrom_addr {vs : List Byte} {a : Nat} : ∀ c ∈ cellsFrom a vs, a ≤ c.1 ∧ c.1 < a + vs.length := by
  induction vs generalizing a with
  | nil => simp [cellsFrom]
  | cons v vs ih =>
    simp only [cellsFrom, List.mem_cons, forall_eq_or_imp, List.length_cons]
    exact ⟨by omega, fun c hc => by have := ih c hc; omega⟩

/-- Bytes taken at stored registers are stored, one by one. -/
theorem foldl_takeByte_stored {m : RegMap} {ans : BusAnswer} (cells : List Host.Cell) (mem : Memory)
    (h : ∀ c ∈ cells, isStored m c.1 = true) :
    cells.foldl (takeByte m ans) mem = cells.foldl (fun m c => m.write c.1 c.2) mem := by
  induction cells generalizing mem with
  | nil => rfl
  | cons c cs ih =>
    rw [List.foldl_cons, List.foldl_cons, ih _ (fun d hd => h d (by simp [hd])),
      show takeByte m ans mem c = mem.write c.1 c.2 from takeByte_stored (h c (by simp))]

/-- A write of bytes from `a`, register by register. -/
theorem byteAt_foldl_cellsFrom (vs : List Byte) (mem : Memory) (a b : Nat) :
    ((cellsFrom a vs).foldl (fun m c => m.write c.1 c.2) mem).byteAt b =
      if h : a ≤ b ∧ b < a + vs.length then vs[b - a] else mem.byteAt b := by
  have e : (cellsFrom a vs).foldl (fun m c => m.write c.1 c.2) mem = mem.writeBytes a vs := by
    induction vs generalizing mem a with
    | nil => rfl
    | cons v vs ih => exact ih _ _
  rw [e, Memory.byteAt_writeBytes]

/-- A partial write of bytes from `a`: each named register holds its new byte or its old one, every other its old one. -/
theorem byteAt_foldl_cellsTaken (vs : List Byte) (ts : List Bool) (mem : Memory) (a b : Nat) :
    ((cellsTaken a vs ts).foldl (fun m c => m.write c.1 c.2) mem).byteAt b = mem.byteAt b ∨
      ∃ h : a ≤ b ∧ b < a + vs.length,
        ((cellsTaken a vs ts).foldl (fun m c => m.write c.1 c.2) mem).byteAt b = vs[b - a] := by
  induction vs generalizing mem a ts with
  | nil => exact .inl rfl
  | cons v vs ih =>
    simp only [cellsTaken, List.foldl_append, List.length_cons]
    have hstep : ∀ mem' : Memory, (mem'.byteAt b = mem.byteAt b ∨ (b = a ∧ mem'.byteAt b = v)) →
        ((cellsTaken (a + 1) vs ts.tail).foldl (fun m c => m.write c.1 c.2) mem').byteAt b = mem.byteAt b ∨
          ∃ h : a ≤ b ∧ b < a + (vs.length + 1),
            ((cellsTaken (a + 1) vs ts.tail).foldl (fun m c => m.write c.1 c.2) mem').byteAt b = (v :: vs)[b - a]'(by simp only [List.length_cons]; omega) := by
      intro mem' hm
      rcases ih ts.tail mem' (a + 1) with h | ⟨h, e⟩
      · rcases hm with hm | ⟨rfl, hm⟩
        · exact .inl (h.trans hm)
        · refine .inr ⟨by omega, ?_⟩
          rw [h, hm]; simp
      · refine .inr ⟨by omega, ?_⟩
        have e2 : b - a = (b - (a + 1)) + 1 := by omega
        simp only [e, e2, List.getElem_cons_succ]
    apply hstep
    split
    · by_cases hb : b = a
      · exact .inr ⟨hb, by simp [hb]⟩
      · exact .inl (by simp [hb])
    · exact .inl rfl

/-- A write that succeeds at stored registers of an awake sensor: the named registers hold the bytes, every other register
what the frame events before left it. -/
theorem byteAt_write_stored {n : Nat} {a : RegBase n} {v : Vector Byte n} {s : State} {c : BusCall}
    (hst : ∀ k, k < n → isStored s.cfg.rm (a.val + k) = true) (hne : a.val ≠ s.cfg.rm.pctl.val) (hp : s.power = .awake)
    (b : Nat) :
    (record c (sensorTakes false s.env.answer a.val (cellsFrom a.val v.toList) (beforeTransfer s))).mem.byteAt b =
      if h : a.val ≤ b ∧ b < a.val + n then v[b - a.val]
      else (frameEvents s.cfg.rm s.env.answer.frames s.mem).byteAt b := by
  have hall : ∀ c ∈ cellsFrom a.val v.toList, isStored s.cfg.rm c.1 = true := by
    intro c hc
    have h := cellsFrom_addr c hc
    rw [Vector.length_toList] at h
    have := hst (c.1 - a.val) (by omega)
    rwa [show a.val + (c.1 - a.val) = c.1 by omega] at this
  rw [record_mem, sensorTakes_mem_awake (s := beforeTransfer s) hne hp, beforeTransfer_cfg, foldl_takeByte_stored _ _ hall,
    byteAt_foldl_cellsFrom]
  simp

/-- A write that fails there: each named register holds its new byte or its old one. -/
theorem byteAt_write_stored_failed {n : Nat} {a : RegBase n} {v : Vector Byte n} {s : State} {c : BusCall}
    (hst : ∀ k, k < n → isStored s.cfg.rm (a.val + k) = true) (hne : a.val ≠ s.cfg.rm.pctl.val) (hp : s.power = .awake)
    (b : Nat) :
    (record c (sensorTakes true s.env.answer a.val (cellsTaken a.val v.toList s.env.answer.taken)
        (beforeTransfer s))).mem.byteAt b = (frameEvents s.cfg.rm s.env.answer.frames s.mem).byteAt b ∨
      ∃ h : a.val ≤ b ∧ b < a.val + n,
        (record c (sensorTakes true s.env.answer a.val (cellsTaken a.val v.toList s.env.answer.taken)
          (beforeTransfer s))).mem.byteAt b = v[b - a.val] := by
  have hall : ∀ c ∈ cellsTaken a.val v.toList s.env.answer.taken, isStored s.cfg.rm c.1 = true := by
    intro c hc
    have h := cellsFrom_addr c (cellsTaken_subset _ _ _ c hc)
    rw [Vector.length_toList] at h
    have := hst (c.1 - a.val) (by omega)
    rwa [show a.val + (c.1 - a.val) = c.1 by omega] at this
  rw [record_mem, sensorTakes_mem_awake (s := beforeTransfer s) hne hp, beforeTransfer_cfg, foldl_takeByte_stored _ _ hall]
  rcases byteAt_foldl_cellsTaken v.toList s.env.answer.taken (beforeTransfer s).mem a.val b with h | ⟨h, e⟩
  · exact .inl h
  · rw [Vector.length_toList] at h
    exact .inr ⟨h, by rw [e]; simp⟩

/-- A PCTL write that succeeds, whatever the power state. -/
theorem byteAt_write_pctl {v : Byte} {s : State} {c : BusCall} (b : Nat) :
    (record c (sensorTakes false s.env.answer s.cfg.rm.pctl.val (cellsFrom s.cfg.rm.pctl.val [v])
        (beforeTransfer s))).mem.byteAt b =
      if b = s.cfg.rm.pctl.val then v else (frameEvents s.cfg.rm s.env.answer.frames s.mem).byteAt b := by
  simp [sensorTakes, cellsFrom]

/-- A PCTL write that fails: PCTL holds its new byte or its old one, and the power state is unknown. -/
theorem byteAt_write_pctl_failed {v : Byte} {s : State} {c : BusCall} (b : Nat) :
    (record c (sensorTakes true s.env.answer s.cfg.rm.pctl.val (cellsTaken s.cfg.rm.pctl.val [v] s.env.answer.taken)
        (beforeTransfer s))).mem.byteAt b = (frameEvents s.cfg.rm s.env.answer.frames s.mem).byteAt b ∨
      (b = s.cfg.rm.pctl.val ∧
        (record c (sensorTakes true s.env.answer s.cfg.rm.pctl.val (cellsTaken s.cfg.rm.pctl.val [v] s.env.answer.taken)
          (beforeTransfer s))).mem.byteAt b = v) := by
  simp only [sensorTakes, beforeTransfer_cfg, if_true, record_mem, State.withPower_mem, State.withMem_mem]
  rcases byteAt_foldl_cellsTaken [v] s.env.answer.taken (beforeTransfer s).mem s.cfg.rm.pctl.val b with h | ⟨h, e⟩
  · exact .inl h
  · simp only [List.length_singleton] at h
    have hb : b = s.cfg.rm.pctl.val := by omega
    exact .inr ⟨hb, by rw [e]; simp [hb]⟩

/-- What a reset pattern does at an awake sensor: to a class X register with the pattern's byte, exactly its flags
(R54). -/
theorem takeByte_rstInt {m : RegMap} (h : m.WellFormed) (ans : BusAnswer) (mem : Memory) :
    takeByte m ans mem (m.rstIntPat.1.val, m.rstIntPat.2) = clearInt m mem := by
  have hc := (classOf_reset h.1 (patterns_isReset h.2.2.2.2.1).1).2.2
  simp [takeByte, hc, resetFlags]

theorem pattern_cell_ne {p q : RegBase 1 × Byte} (h : p ≠ q) : ((p.1.val, p.2) : Host.Cell) ≠ (q.1.val, q.2) := by
  intro e
  apply h
  obtain ⟨e1, e2⟩ := Prod.mk.injEq .. ▸ e
  exact Prod.ext (Fin.ext e1) e2

theorem takeByte_rstOvf {m : RegMap} (h : m.WellFormed) (ans : BusAnswer) (mem : Memory) :
    takeByte m ans mem (m.rstOvfPat.1.val, m.rstOvfPat.2) = clearOvf m mem := by
  have hc := (classOf_reset h.1 (patterns_isReset h.2.2.2.2.1).2.1).2.2
  have hne := pattern_cell_ne (Ne.symm h.2.2.2.2.2.1)
  simp only [takeByte, hc, resetFlags]
  rw [if_neg hne, if_pos trivial]

theorem takeByte_rstAll {m : RegMap} (h : m.WellFormed) (ans : BusAnswer) (mem : Memory) :
    takeByte m ans mem (m.rstAllPat.1.val, m.rstAllPat.2) = clearAll m mem := by
  have hc := (classOf_reset h.1 (patterns_isReset h.2.2.2.2.1).2.2).2.2
  have hne := pattern_cell_ne (Ne.symm h.2.2.2.2.2.2.1)
  have hne2 := pattern_cell_ne (Ne.symm h.2.2.2.2.2.2.2)
  simp only [takeByte, hc, resetFlags]
  rw [if_neg hne, if_neg hne2, if_pos trivial]

/-- A reset pattern's register is not PCTL. -/
theorem reset_ne_pctl {m : RegMap} (h : m.registersApart) {a : Nat} (ha : isReset m a = true) : a ≠ m.pctl.val := by
  intro e
  have := (classOf_reset h ha).2.1
  rw [e] at this
  simp at this

/-- A one-byte write of a class X register at an awake sensor. -/
theorem mem_write_reset {a : RegBase 1} {v : Byte} {s : State} {c : BusCall} (hne : a.val ≠ s.cfg.rm.pctl.val)
    (hp : s.power = .awake) :
    (record c (sensorTakes false s.env.answer a.val (cellsFrom a.val [v]) (beforeTransfer s))).mem =
      takeByte s.cfg.rm s.env.answer (frameEvents s.cfg.rm s.env.answer.frames s.mem) (a.val, v) := by
  rw [record_mem, sensorTakes_mem_awake (s := beforeTransfer s) hne hp]
  rfl

/-- A register apart from PCTL by its place in the map. -/
theorem ne_pctl_of_span {m : RegMap} (h : m.registersApart) {a : Nat} {i : Fin 13} (hi : inSpan m a i) (h0 : i ≠ 0) :
    a ≠ m.pctl.val := by
  intro e; exact h0 (inSpan_unique h hi ((inSpan_pctl m a).2 e))

theorem frameEvents_other {s : State} {a : Nat} (h : isSensorDriven s.cfg.rm a = false ∨ s.env.answer.frames = []) :
    (frameEvents s.cfg.rm s.env.answer.frames s.mem).byteAt a = s.mem.byteAt a := by
  rcases h with h | h
  · exact byteAt_frameEvents h
  · rw [h, frameEvents_nil]

end Sys2Proof.Machine
end

