-- ==== Sys2Proof/Tests/Slice0.lean ====
section
/-! SUPPORT. The sitting's own tests. Expected values are the spec's (spec/95_test_vectors.md, named by vector) or are worked
out by hand from the rule named; none is the model's own answer. The last part has a witness for every obligation with
hypotheses. -/

namespace Sys2Proof.Tests

set_option Elab.async false

open Sys2Proof.Machine Sys2Proof.Claims

/-! ### Ill-formed terms are refused, one per check -/

theorem test_reference_map_wellFormed : referenceMap.WellFormed := by decide

theorem test_overlap_refused : ¬ (RegMap.WellFormed { referenceMap with intl := 0x09 }) := by decide

theorem test_same_power_codes_refused : ¬ (RegMap.WellFormed { referenceMap with pctlSleep := 0x00 }) := by decide

theorem test_same_control_bits_refused : ¬ (RegMap.WellFormed { referenceMap with intmodBit := 0 }) := by decide

theorem test_same_status_bits_refused : ¬ (RegMap.WellFormed { referenceMap with ovfBit := 1 }) := by decide

theorem test_pattern_off_reset_register_refused :
    ¬ (RegMap.WellFormed { referenceMap with rstAllPat := (0x00, 0x30) }) := by decide

theorem test_same_patterns_refused : ¬ (RegMap.WellFormed { referenceMap with rstOvfPat := (0x05, 0x02) }) := by decide

theorem test_command_shape_refused : Command.wellFormed ⟨0x00, .none⟩ = false := by decide

theorem test_nested_scope_refused : HostProgram.wellFormed (.scope (.scope .done .done) .done) = false := by decide

theorem test_scope_enter_in_body_refused :
    HostProgram.wellFormed (.scope (.command ⟨0x23, .none⟩ .done) .done) = false := by decide

theorem test_scope_exit_in_body_refused :
    HostProgram.wellFormed (.scope (.command ⟨0x24, .none⟩ .done) .done) = false := by decide

/-- R148: a program opens a scope by the construct alone. -/
theorem test_bare_scope_enter_refused :
    HostProgram.wellFormed (.command ⟨0x20, .none⟩ (.command ⟨0x23, .none⟩ .done)) = false := by decide

/-- P4 is a program: SCOPE_EXIT without a scope, and a reserved code, stand in it. -/
theorem test_misuse_program_wellFormed :
    HostProgram.wellFormed (.command ⟨0x30, .none⟩ (.command ⟨0x24, .none⟩ (.command ⟨0x60, .none⟩ .done))) = true := by
  decide

theorem test_bad_command_in_program_refused : HostProgram.wellFormed (.command ⟨0x41, .none⟩ .done) = false := by decide

/-! ### The environment's own step -/

/-- R57: with nothing on the port a frame event sets STAT, and does not touch FPSC, which no frame event may change. -/
theorem test_frame_event_at_idle_port : ∃ t,
    step ((State.reset.withMem [(0x02, 0x01), (0x04, 0x00)]).withTurns [.frame [(0x04, 0x02), (0x02, 0x00)]]) = .next t ∧
    t.mem.byteAt 0x04 = 0x02 ∧ t.mem.byteAt 0x02 = 0x01 ∧ t.turns = [] :=
  ⟨_, rfl, by decide, by decide, rfl⟩

/-- A word placed by the host is the next step's, although a frame event was due (opcode table: 0x22 is ASLEEP). -/
theorem test_fetch_word_runs_next :
    step ((State.reset.withTurns [.frame [(0x04, 0x02)]]).withFetchWord 8 0x22) =
      exec .asleep (State.reset.withTurns [.frame [(0x04, 0x02)]]) := rfl

/-! ### Decoding: every code written out bit by bit from R72 to R77 -/

/-- Format CT: `0000 fn prof`. -/
theorem test_decode_ct (p : Pair) (t : TempIn) (b : FlagBytes) :
    decode ⟨0b00000000, .pair p⟩ = .ok (.dectPix p) ∧ decode ⟨0b00000001, .pair p⟩ = .ok (.dectDev p) ∧
    decode ⟨0b00000010, .pair p⟩ = .ok (.dectHys p) ∧ decode ⟨0b00000100, .temp t⟩ = .ok (.enctPix t) ∧
    decode ⟨0b00000101, .temp t⟩ = .ok (.enctDev t) ∧ decode ⟨0b00000110, .temp t⟩ = .ok (.enctHys t) ∧
    decode ⟨0b00001000, .flagBytes b⟩ = .ok (.decpf b) := ⟨rfl, rfl, rfl, rfl, rfl, rfl, rfl⟩

/-- Format CE, dir = 0: `0001 0 sel`. -/
theorem test_decode_ce_decode (v : Byte) (str : String) :
    decode ⟨0b00010000, .byte v⟩ = .ok (.deceFr v) ∧ decode ⟨0b00010001, .byte v⟩ = .ok (.deceMa v) ∧
    decode ⟨0b00010010, .byte v⟩ = .ok (.deceDm v) ∧ decode ⟨0b00010011, .byte v⟩ = .ok (.deceIe v) ∧
    decode ⟨0b00010100, .byte v⟩ = .ok (.deceIa v) ∧ decode ⟨0b00010111, .str str⟩ = .ok (.parseFr str) :=
  ⟨rfl, rfl, rfl, rfl, rfl, rfl⟩

/-- Format CE, dir = 1: `0001 1 sel`. -/
theorem test_decode_ce_encode (f : FrameRate) (x : Bool) (d : Mode) (v : Byte) :
    decode ⟨0b00011000, .rateOld f v⟩ = .ok (.enceFr f v) ∧ decode ⟨0b00011001, .boolOld x v⟩ = .ok (.enceMa x v) ∧
    decode ⟨0b00011010, .mode d⟩ = .ok (.enceDm d) ∧ decode ⟨0b00011011, .boolOld x v⟩ = .ok (.enceIe x v) ∧
    decode ⟨0b00011100, .boolOld x v⟩ = .ok (.enceIa x v) := ⟨rfl, rfl, rfl, rfl, rfl⟩

/-- Format M: `0010 func`. -/
theorem test_decode_m :
    decode ⟨0b00100000, .none⟩ = .ok .wake ∧ decode ⟨0b00100001, .none⟩ = .ok .sleep ∧
    decode ⟨0b00100010, .none⟩ = .ok .asleep ∧ decode ⟨0b00100011, .none⟩ = .ok .scopeEnter ∧
    decode ⟨0b00100100, .none⟩ = .ok .scopeExit := by decide

/-- Format S: `0011 func`. -/
theorem test_decode_s :
    decode ⟨0b00110000, .none⟩ = .ok .image ∧ decode ⟨0b00110001, .none⟩ = .ok .devtemp := by decide

/-- Format CF: `0100 func`. -/
theorem test_decode_cf (f : FrameRate) (x : Bool) (cf : ICfgIn) :
    decode ⟨0b01000000, .none⟩ = .ok .rdFr ∧ decode ⟨0b01000001, .rate f⟩ = .ok (.wrFr f) ∧
    decode ⟨0b01000010, .none⟩ = .ok .rdMa ∧ decode ⟨0b01000011, .bool x⟩ = .ok (.wrMa x) ∧
    decode ⟨0b01000100, .none⟩ = .ok .rdIcfg ∧ decode ⟨0b01000101, .icfg cf⟩ = .ok (.wrIcfg cf) ∧
    decode ⟨0b01000110, .none⟩ = .ok .disInt := ⟨rfl, rfl, rfl, rfl, rfl, rfl, rfl⟩

/-- Format ST: `0101 func`. -/
theorem test_decode_st :
    decode ⟨0b01010000, .none⟩ = .ok .rdInt ∧ decode ⟨0b01010001, .none⟩ = .ok .rdPxint ∧
    decode ⟨0b01010010, .none⟩ = .ok .rdOvf ∧ decode ⟨0b01010011, .none⟩ = .ok .rstInt ∧
    decode ⟨0b01010100, .none⟩ = .ok .rstOvf ∧ decode ⟨0b01010101, .none⟩ = .ok .rstFlags := by decide

/-- The reserved codes of R72 to R78 that stand first and last in their ranges (V-E-1 to V-E-3). -/
theorem test_decode_reserved :
    ∀ op ∈ [0x03#8, 0x07#8, 0x09#8, 0x0A#8, 0x0B#8, 0x0C#8, 0x0F#8, 0x15#8, 0x16#8, 0x1D#8, 0x1F#8, 0x25#8, 0x2F#8, 0x32#8,
      0x3F#8, 0x47#8, 0x4F#8, 0x56#8, 0x5F#8, 0x60#8, 0x80#8, 0xFF#8],
      decode ⟨op, .none⟩ = .error (.reservedCode op) := by decide

/-! ### Small states -/

/-- The environment answers: success, nothing moves. -/
def good : BusAnswer := ⟨[], none, [], [], []⟩

/-- The environment answers: NACK, nothing taken. -/
def nack : BusAnswer := ⟨[], some .nack, [], [], []⟩

/-- Constructed with the reference binding, the sensor's registers as listed; the transfers answered as listed. -/
def asleepWith (mem : Memory) (script : List BusAnswer) : State :=
  (State.reset.withMem mem).withEnv ⟨script, 0⟩

/-- The same with `mode` AWAKE and the sensor awake. -/
def awakeWith (mem : Memory) (script : List BusAnswer) : State :=
  ((asleepWith mem script).withMode .awake).withPower .awake

/-- The same under GATE_POLICY = REFUSE, ASLEEP. -/
def refusing : State :=
  { asleepWith [] [good] with cfg := { referenceCfg with policy := .refuse } }

/-- The block's status and result. -/
def answer (i : Instr) (s : State) : Option (Status × Option Value) :=
  match exec i s with
  | .next t => t.reply.map fun r => (r.status, r.result)
  | .fault _ => none
  | .refused _ => none

/-- The transfers, as direction, address and bytes. -/
def calls (i : Instr) (s : State) : List (Dir × Nat × List Byte) :=
  match exec i s with
  | .next t => t.bus.map fun c => (c.dir, c.addr, c.data)
  | .fault _ => []
  | .refused _ => []

/-- The state after. -/
def after (i : Instr) (s : State) : State :=
  match exec i s with
  | .next t => t
  | .fault _ => s
  | .refused _ => s

/-! ### Temperature codec -/

/-- V-DT-4, V-DT-5. -/
theorem test_dectPix :
    answer (.dectPix #v[0xFF, 0xFF]) .reset = some (.ok, some (.temp (-1 / 4))) ∧
    answer (.dectPix #v[0x00, 0x08]) .reset = some (.ok, some (.temp (-512))) := by decide +kernel

/-- V-DT-19, V-DT-20. -/
theorem test_dectDev :
    answer (.dectDev #v[0x01, 0x08]) .reset = some (.ok, some (.temp (1 / 16))) ∧
    answer (.dectDev #v[0x60, 0x07]) .reset = some (.ok, some (.temp (-10))) := by decide +kernel

/-- V-DT-27, V-DT-28. -/
theorem test_dectHys :
    answer (.dectHys #v[0xFF, 0xFF]) .reset = some (.ok, some (.temp (4095 / 4))) ∧
    answer (.dectHys #v[0xD8, 0x0F]) .reset = some (.ok, some (.temp 1014)) := by decide +kernel

/-- V-ET-4, V-ET-12, V-ET-10, V-ET-15, V-ET-19. -/
theorem test_enctPix_rounds :
    encodeTemperature (.finite (-10)) .pixel = some #v[0xD8, 0x0F] ∧
    encodeTemperature (.finite (-3 / 8)) .pixel = some #v[0xFE, 0x0F] ∧
    encodeTemperature (.finite (5 / 8)) .pixel = some #v[0x02, 0x00] ∧
    encodeTemperature (.finite (4095 / 8)) .pixel = some #v[0xFF, 0x07] ∧
    encodeTemperature (.finite (-4097 / 8)) .pixel = some #v[0x00, 0x08] := by decide +kernel

/-- V-ET-3, V-ET-23. -/
theorem test_enctPix :
    answer (.enctPix (.finite 25)) .reset = some (.ok, some (.pair #v[0x64, 0x00])) ∧
    answer (.enctPix .nan) .reset = some (.valueOutOfRange, none) := by decide +kernel

/-- V-ET-30, V-ET-32. -/
theorem test_enctDev :
    answer (.enctDev (.finite (-3 / 32))) .reset = some (.ok, some (.pair #v[0xFE, 0x07])) ∧
    answer (.enctDev (.finite (2047 / 32))) .reset = some (.ok, some (.pair #v[0xFF, 0x03])) := by decide +kernel

/-- V-ET-42, V-ET-48. -/
theorem test_enctHys :
    answer (.enctHys (.finite (-1))) .reset = some (.ok, some (.pair #v[0x00, 0x00])) ∧
    answer (.enctHys (.finite 512)) .reset = some (.ok, some (.pair #v[0x00, 0x08])) := by decide +kernel

/-- V-PF-4, V-PF-5: pixels 10, 7 and 56. -/
theorem test_decpf :
    decodePixelFlags #v[0x00, 0x04, 0, 0, 0, 0, 0, 0] = gridOf (fun i => decide (i = 10)) ∧
    decodePixelFlags #v[0x80, 0, 0, 0, 0, 0, 0, 0x01] = gridOf (fun i => decide (i = 7) || decide (i = 56)) := by
  decide +kernel

/-! ### Enum codecs -/

/-- V-EN-3, V-EN-4. -/
theorem test_deceFr :
    answer (.deceFr 0xFE) .reset = some (.ok, some (.rate .high)) ∧
    answer (.deceFr 0xFF) .reset = some (.ok, some (.rate .low)) := by decide +kernel

/-- V-EN-9. -/
theorem test_deceMa : answer (.deceMa 0xDF) .reset = some (.ok, some (.bool false)) := by decide +kernel

/-- V-EN-13, V-EN-14. -/
theorem test_deceDm :
    answer (.deceDm 0x10) .reset = some (.ok, some (.modeRead .asleep)) ∧
    answer (.deceDm 0x21) .reset = some (.ok, some (.modeRead .unknown)) := by decide +kernel

/-- V-EN-18. -/
theorem test_deceIe : answer (.deceIe 0x02) .reset = some (.ok, some (.bool false)) := by decide +kernel

/-- V-EN-21. -/
theorem test_deceIa : answer (.deceIa 0x02) .reset = some (.ok, some (.bool true)) := by decide +kernel

/-- V-PARSE-2, V-PARSE-4. -/
theorem test_parseFr :
    answer (.parseFr "high") .reset = some (.ok, some (.rate .high)) ∧
    answer (.parseFr "High") .reset = some (.invalidEnumValue, none) := by decide +kernel

/-- V-EN-5, V-EN-6. -/
theorem test_enceFr :
    answer (.enceFr .high 0x01) .reset = some (.ok, some (.byte 0x00)) ∧
    answer (.enceFr .low 0xF0) .reset = some (.ok, some (.byte 0xF1)) := by decide +kernel

/-- V-EN-11. -/
theorem test_enceMa : answer (.enceMa false 0xFF) .reset = some (.ok, some (.byte 0xDF)) := by decide +kernel

/-- V-EN-16. -/
theorem test_enceDm : answer (.enceDm .asleep) .reset = some (.ok, some (.byte 0x10)) := by decide +kernel

/-- V-EN-20. -/
theorem test_enceIe : answer (.enceIe true 0x02) .reset = some (.ok, some (.byte 0x03)) := by decide +kernel

/-- V-EN-24. -/
theorem test_enceIa : answer (.enceIa false 0x03) .reset = some (.ok, some (.byte 0x01)) := by decide +kernel

/-! ### Mode FSM -/

/-- V-M-2. -/
theorem test_wake :
    calls .wake (asleepWith [] [good]) = [(.write, 0, [0x00])] ∧
    (after .wake (asleepWith [] [good])).mode = .awake := by decide +kernel

/-- V-M-3. -/
theorem test_wake_fails :
    answer .wake (asleepWith [] [nack]) = some (.transferError, none) ∧
    (after .wake (asleepWith [] [nack])).mode = .asleep := by decide +kernel

/-- R144's example; V-M-4. -/
theorem test_sleep :
    calls .sleep (awakeWith [] [good]) = [(.write, 0, [0x10])] ∧
    (after .sleep (awakeWith [] [good])).mode = .asleep ∧
    (after .sleep (awakeWith [] [nack])).mode = .awake := by decide +kernel

/-- V-M-1, V-M-2. -/
theorem test_asleep :
    answer .asleep .reset = some (.ok, some (.bool true)) ∧
    answer .asleep (awakeWith [] []) = some (.ok, some (.bool false)) := by decide +kernel

/-- V-M-5: the second SCOPE_ENTER. -/
theorem test_scopeEnter :
    (after .scopeEnter (asleepWith [] [good])).scopeActive = true ∧
    answer .scopeEnter ((awakeWith [] []).withScope true) = some (.nestedScope, none) ∧
    (after .scopeEnter ((awakeWith [] []).withScope true)).refused = true := by decide +kernel

/-- V-M-8, V-M-6. -/
theorem test_scopeExit :
    (after .scopeExit ((awakeWith [] [nack]).withScope true)).scopeActive = false ∧
    (after .scopeExit ((awakeWith [] [nack]).withScope true)).mode = .awake ∧
    answer .scopeExit .reset = some (.noScope, none) := by decide +kernel

/-! ### Samples -/

/-- The pixel table with pixel 9 = `[0x9C, 0x0F]`, the rest 0. -/
def pixelTable : Memory :=
  (List.range 128).map fun k => (0x80 + k, if k = 18 then 0x9C#8 else if k = 19 then 0x0F#8 else 0#8)

/-- V-S-2: `g[1][1] = -25.0`, the rest 0.0. -/
theorem test_image :
    answer .image (awakeWith pixelTable [good]) =
      some (.ok, some (.image (gridOf fun i => if i = 9 then -25 else 0))) := by decide +kernel

/-- V-S-8, V-S-9. -/
theorem test_image_stops :
    answer .image refusing = some (.gateRefused, none) ∧ calls .image refusing = [] ∧
    answer .image (awakeWith [] [nack]) = some (.transferError, none) := by decide +kernel

/-- V-S-6. -/
theorem test_devtemp :
    answer .devtemp (awakeWith [(0x0E, 0x00), (0x0F, 0x04)] [good]) = some (.ok, some (.temp (-64))) := by decide +kernel

/-- V-S-7: a draw, and the fault bit. -/
theorem test_devtemp_asleep :
    answer .devtemp (asleepWith [] [{ good with drawn := [0xC8, 0x00] }]) = some (.ok, some (.temp (25 / 2))) ∧
    (after .devtemp (asleepWith [] [{ good with drawn := [0xC8, 0x00] }])).gateViolation = true := by decide +kernel

/-! ### Configuration -/

/-- V-CF-1. -/
theorem test_rdFr : answer .rdFr (awakeWith [(2, 0x01)] [good]) = some (.ok, some (.rate .low)) := by decide +kernel

/-- V-CF-3. -/
theorem test_wrFr :
    calls (.wrFr .low) (awakeWith [(2, 0xF0)] [good, good]) = [(.read, 2, [0xF0]), (.write, 2, [0xF1])] ∧
    (after (.wrFr .low) (awakeWith [(2, 0xF0)] [good, good])).mem = [(2, 0xF1)] := by decide +kernel

/-- V-CF-5: the write fails, with its byte taken. -/
theorem test_wrFr_fails :
    answer (.wrFr .high) (awakeWith [(2, 0x01)] [good, { nack with taken := [true] }]) = some (.transferError, none) ∧
    (after (.wrFr .high) (awakeWith [(2, 0x01)] [good, { nack with taken := [true] }])).mem = [(2, 0x00)] ∧
    (after (.wrFr .high) (awakeWith [(2, 0x01)] [good, nack])).mem = [(2, 0x01)] := by decide +kernel

/-- V-CF-7. -/
theorem test_rdMa : answer .rdMa (awakeWith [(7, 0x21)] [good]) = some (.ok, some (.bool true)) := by decide +kernel

/-- V-CF-8. -/
theorem test_wrMa :
    calls (.wrMa false) (awakeWith [(7, 0xFF)] [good, good]) = [(.read, 7, [0xFF]), (.write, 7, [0xDF])] := by
  decide +kernel

/-- The registers of V-CF-10. -/
def configured : Memory :=
  [(3, 0x03), (8, 0x78), (9, 0x00), (10, 0x28), (11, 0x00), (12, 0x08), (13, 0x00)]

/-- V-CF-10. -/
theorem test_rdIcfg :
    answer .rdIcfg (awakeWith configured [good, good, good, good]) =
      some (.ok, some (.icfg ⟨true, true, 30, 10, 2⟩)) := by decide +kernel

/-- V-CF-11: clamped limits, reserved bits kept. -/
theorem test_wrIcfg :
    calls (.wrIcfg ⟨false, true, .finite 600, .finite (-600), .finite (-1)⟩)
        (awakeWith [(3, 0xF0)] [good, good, good, good, good]) =
      [(.read, 3, [0xF0]), (.write, 8, [0xFF, 0x07]), (.write, 10, [0x00, 0x08]), (.write, 12, [0x00, 0x00]),
       (.write, 3, [0xF2])] := by decide +kernel

/-- V-E-7: the third write fails with its second byte taken. -/
theorem test_wrIcfg_fails_late :
    (after (.wrIcfg ⟨true, true, .finite 30, .finite 10, .finite 2⟩)
      (awakeWith [(3, 0x00), (12, 0xEE), (13, 0xEE)] [good, good, good, { nack with taken := [false, true] }])).mem =
      [(3, 0x00), (8, 0x78), (9, 0x00), (10, 0x28), (11, 0x00), (12, 0xEE), (13, 0x00)] := by decide +kernel

/-- V-CF-15. -/
theorem test_disInt :
    calls .disInt (awakeWith configured [good, good]) = [(.read, 3, [0x03]), (.write, 3, [0x02])] := by decide +kernel

/-- V-CF-16. -/
theorem test_disInt_refused :
    answer .disInt refusing = some (.gateRefused, none) ∧ (after .disInt refusing).refused = true := by decide +kernel

/-! ### Status -/

/-- V-ST-4, V-ST-2. -/
theorem test_rdInt :
    answer .rdInt (awakeWith [(3, 0x03), (4, 0xFD)] [good, good]) = some (.ok, some (.bool false)) ∧
    answer .rdInt (awakeWith [(3, 0x03), (4, 0x02)] [good, good]) = some (.ok, some (.bool true)) := by decide +kernel

/-- Program P2, step 12: INTF presented as 1 while disabled. -/
theorem test_rdInt_disabled :
    calls .rdInt (awakeWith [(3, 0x02), (4, 0x04)] [good, good]) = [(.read, 3, [0x02]), (.read, 4, [0x06])] ∧
    answer .rdInt (awakeWith [(3, 0x02), (4, 0x04)] [good, good]) = some (.ok, some (.bool true)) := by decide +kernel

/-- V-ST-7. -/
theorem test_rdPxint :
    answer .rdPxint (awakeWith [(16, 0), (17, 0x04), (18, 0), (19, 0), (20, 0), (21, 0), (22, 0), (23, 0)] [good]) =
      some (.ok, some (.flags (gridOf fun i => decide (i = 10)))) := by decide +kernel

/-- V-ST-6. -/
theorem test_rdOvf :
    answer .rdOvf (awakeWith [(3, 0x03), (4, 0x02)] [good]) = some (.ok, some (.bool false)) := by decide +kernel

/-- The registers of V-ST-8 to V-ST-10. -/
def flagged : Memory :=
  [(3, 0x03), (4, 0x06), (16, 0x01), (17, 0), (18, 0), (19, 0), (20, 0), (21, 0), (22, 0), (23, 0)]

/-- V-ST-8. -/
theorem test_rstInt :
    calls .rstInt (awakeWith flagged [good]) = [(.write, 5, [0x02])] ∧
    (after .rstInt (awakeWith flagged [good])).mem = flagged.write 4 0x04 := by decide +kernel

/-- V-ST-9. -/
theorem test_rstOvf :
    calls .rstOvf (awakeWith flagged [good]) = [(.write, 5, [0x04])] ∧
    (after .rstOvf (awakeWith flagged [good])).mem = flagged.write 4 0x02 := by decide +kernel

/-- V-ST-10. -/
theorem test_rstFlags :
    calls .rstFlags (awakeWith flagged [good]) = [(.write, 1, [0x30])] ∧
    (after .rstFlags (awakeWith flagged [good])).mem = (flagged.write 4 0x00).write 16 0x00 := by decide +kernel

/-! ### Host programs -/

/-- V-CF-4: no transfer. -/
theorem test_wrFrString :
    (issueWrFrString "Low" (awakeWith [] [])).map (fun r => (r.1.bus, r.2)) = some ([], .invalidEnumValue) := by
  decide +kernel

/-- V-M-9: `SCOPE { }`. -/
theorem test_empty_scope :
    (runScope .done (asleepWith [] [good, good])).map (fun r => (r.1.mode, r.1.scopeActive, r.2)) =
      some (.asleep, false, .scope .ok .ok) := by decide +kernel

/-! ### Witnesses: for every obligation with hypotheses, values that meet all of them together -/

/-- An awake sensor whose PCTL holds the awake encoding, with flags set and a configuration. -/
def live (script : List BusAnswer) : State :=
  awakeWith ((0, 0x00) :: (2, 0x01) :: flagged) script

theorem witness_DecodeAndEncodeAgree : decode ⟨0x17, .str "low"⟩ = .ok (.parseFr "low") := by decide

/-- The block's turn, unlisted and listed; the environment's turn with a command on the port; an idle port. -/
theorem witness_StepPerformsTheDecodedCommand :
    ((live [good]).withPort [⟨0x20, .none⟩]).port = [⟨0x20, .none⟩] ∧ decode ⟨0x20, .none⟩ = .ok .wake ∧
    ((live [good]).withPort [⟨0x20, .none⟩]).environmentMoves = false ∧
    (((live [good]).withPort [⟨0x20, .none⟩]).withTurns [.block]).environmentMoves = false ∧
    (((live [good]).withPort [⟨0x20, .none⟩]).withTurns [.frame []]).environmentMoves = true ∧
    State.reset.turns = [] ∧ State.reset.port = [] := by decide

theorem witness_ReservedCodeIsRefusedWithoutTransfer :
    ((live []).withPort [⟨0x60, .none⟩]).port = [⟨0x60, .none⟩] ∧ decode ⟨0x60, .none⟩ = .error (.reservedCode 0x60) ∧
    ((live []).withPort [⟨0x60, .none⟩]).environmentMoves = false := by decide

theorem witness_ConfigurationNeverChanges : ∃ t, step ((live [good]).withPort [⟨0x40, .none⟩]) = .next t := ⟨_, rfl⟩

theorem witness_StepKeepsTheInvariant :
    Inv ((live [good]).withPort [⟨0x21, .none⟩]) ∧
    ∃ t, step ((live [good]).withPort [⟨0x21, .none⟩]) = .next t :=
  ⟨⟨by decide, by decide, by decide, by decide⟩, _, rfl⟩

/-- A command that is refused; the environment's turn before it. -/
theorem witness_RefusedIsStickyAndExact : ∃ t u, (State.reset.withPort [⟨0x24, .none⟩]).port ≠ [] ∧
    (State.reset.withPort [⟨0x24, .none⟩]).environmentMoves = false ∧
    step (State.reset.withPort [⟨0x24, .none⟩]) = .next t ∧ isRefusal t.lastStatus ∧
    ((State.reset.withPort [⟨0x24, .none⟩]).withTurns [.frame []]).environmentMoves = true ∧
    step ((State.reset.withPort [⟨0x24, .none⟩]).withTurns [.frame []]) = .next u :=
  ⟨_, _, by decide, by decide, rfl, by decide, by decide, rfl⟩

theorem witness_ConstructionMeetsTheInvariant : referenceCfg.rm.WellFormed := by decide

/-- One for each clause: a power command that ends OK, one that fails, and another command. -/
theorem witness_ModeFollowsTheTransitionTable : ∃ t u v w,
    exec .wake (asleepWith [] [good]) = .next t ∧ t.lastStatus = .ok ∧
    exec .wake (asleepWith [] [nack]) = .next u ∧ u.lastStatus ≠ .ok ∧
    exec .sleep (live [good]) = .next v ∧ v.lastStatus = .ok ∧ exec .asleep (live []) = .next w :=
  ⟨_, _, _, _, rfl, by decide, rfl, by decide, rfl, by decide, rfl⟩

theorem witness_ScopeBitFollowsEnterAndExit : ∃ t u v,
    exec .scopeEnter (asleepWith [] [good]) = .next t ∧ exec .scopeExit ((live [nack]).withScope true) = .next u ∧
    exec .wake (asleepWith [] [good]) = .next v :=
  ⟨_, _, _, rfl, rfl, rfl⟩

theorem witness_GateViolationIsStickyAndExact : ∃ t,
    exec .image (asleepWith [] [good]) = .next t ∧ ReachesGate .image ∧ (asleepWith [] [good]).mode = .asleep ∧
    (asleepWith [] [good]).cfg.policy = .issue :=
  ⟨_, rfl, trivial, rfl, rfl⟩

theorem witness_StickyBitsAndLastAnswerDoNotMatter : ∃ t, exec .rdOvf (live [good]) = .next t := ⟨_, rfl⟩

theorem witness_CommandsIssueExactlyTheirTransfers : ∃ t,
    exec (.wrFr .high) (live [good, good]) = .next t ∧ t.lastStatus = .ok :=
  ⟨_, rfl, by decide⟩

theorem witness_TransferErrorRecordsTheFailingCall : ∃ t u,
    exec (.wrFr .high) (live [good, nack]) = .next t ∧ t.lastStatus = .transferError ∧
    exec (.wrFr .high) (live [good, good]) = .next u ∧ u.lastStatus ≠ .transferError :=
  ⟨_, _, rfl, by decide, rfl, by decide⟩

theorem witness_CodecCommandsArePure : (encode (.enceIa true 0x01)).op.toNat < 0x20 ∧
    (live []).cfg = State.reset.cfg ∧ live [] ≠ State.reset := by decide

/-- At the end of the device range, and at a multiple of its LSB. -/
theorem witness_DecodeAfterEncodeIsWithinHalfLsb : lo .device * lsb .device ≤ (1023 / 16 : Rat) ∧
    (1023 / 16 : Rat) ≤ hi .device * lsb .device ∧ (1023 / 16 : Rat) = (1023 : Int) * lsb .device := by decide +kernel

theorem witness_NegativeTemperaturesStayNegative : roundHalfEven ((-1 / 4) / lsb .pixel) ≤ -1 ∧
    roundHalfEven ((-1 / 16) / lsb .device) ≤ -1 := by decide +kernel

theorem witness_WakeWritesThenSetsMode : (live [good]).env.answer.error = none := by decide

theorem witness_SleepWritesThenSetsMode :
    (live [good]).cfg.rm.powerCodesDiffer ∧ (live [good]).env.answer.error = none := by decide

theorem witness_ScopeEnterWakesAndOpens : (live [good]).scopeActive = false ∧ (live [good]).env.answer.error = none := by
  decide

theorem witness_ScopeExitSleepsAndCloses : ((live [good]).withScope true).cfg.rm.powerCodesDiffer ∧
    ((live [good]).withScope true).scopeActive = true ∧ ((live [good]).withScope true).env.answer.error = none := by decide

theorem witness_UnmatchedScopeCommandsAreRefused :
    ((live []).withScope true).scopeActive = true ∧ (live []).scopeActive = false := by decide

/-- WAKE, SLEEP and SCOPE_ENTER with no scope open; SCOPE_EXIT with one open. -/
theorem witness_FailedPowerWriteKeepsMode :
    (live [nack]).env.answer.error = some .nack ∧ (live [nack]).cfg.rm.registersApart ∧
    (live [nack]).scopeActive = false ∧ ((live [nack]).withScope true).scopeActive = true ∧
    ((live [nack]).withScope true).env.answer.error = some .nack := by decide

theorem witness_GateIssueRecordsAndGoesOn : ∃ t,
    ReachesGate (.wrIcfg ⟨true, true, .finite 30, .finite 10, .posInf⟩) ∧ (asleepWith [] [nack]).mode = .asleep ∧
    (asleepWith [] [nack]).cfg.policy = .issue ∧
    exec (.wrIcfg ⟨true, true, .finite 30, .finite 10, .posInf⟩) ((asleepWith [] [nack]).withMode .awake) = .next t :=
  ⟨_, ⟨by simp, by simp, by simp⟩, rfl, rfl, rfl⟩

theorem witness_GateRefuseIssuesNothing :
    ReachesGate .disInt ∧ refusing.mode = .asleep ∧ refusing.cfg.policy = .refuse := ⟨trivial, rfl, rfl⟩

/-- Asleep under ISSUE, and at an awake sensor whose registers lie apart. -/
theorem witness_DevtempDecodesTheDevicePair : gatePasses (asleepWith [] [good]) ∧
    (asleepWith [] [good]).env.answer.error = none ∧ gatePasses (live [good]) ∧ (live [good]).env.answer.error = none ∧
    (live [good]).power = .awake ∧ (live [good]).cfg.rm.registersApart := by decide

theorem witness_ImageDecodesThePixelTable : gatePasses (live [good]) ∧ (live [good]).env.answer.error = none ∧
    (live [good]).power = .awake ∧ (live [good]).cfg.rm.registersApart := by decide

theorem witness_ImageMayReturnAnyBytes :
    (live []).cfg.rm.registersApart ∧ (live []).power = .awake ∧ gatePasses (live []) := by decide

theorem witness_SleepingSensorMayReturnAnyByte : State.reset.power ≠ .awake := by decide

theorem witness_ConfigurationReadsDecodeOneBit : (live [good]).cfg.rm.registersApart ∧
    (live [good]).env.answer.error = none ∧ (live [good]).power = .awake := by decide

theorem witness_SingleBitWritesPreserveTheRest : (live [good, good]).cfg.rm.registersApart ∧
    (live [good, good]).env.succeeds 2 ∧ gatePasses (live [good, good]) ∧ (live [good, good]).power = .awake := by decide

theorem witness_FrameRateReadsBackAsWritten : ∃ t u, (live [good, good, good]).cfg.rm.registersApart ∧
    (live [good, good, good]).power = .awake ∧ exec (.wrFr .high) (live [good, good, good]) = .next t ∧
    exec .rdFr t = .next u ∧ t.lastStatus = .ok ∧ u.lastStatus = .ok :=
  ⟨_, _, by decide, rfl, rfl, rfl, by decide, by decide⟩

theorem witness_RdIcfgDecodesFourRegions : (live [good, good, good, good]).cfg.rm.registersApart ∧
    (live [good, good, good, good]).env.succeeds 4 ∧ (live [good, good, good, good]).power = .awake := by decide

theorem witness_WrIcfgWritesLimitsThenControl : (live [good, good, good, good, good]).cfg.rm.registersApart ∧
    (live [good, good, good, good, good]).cfg.rm.controlBitsDiffer ∧
    validLimits ⟨true, false, .finite 600, .negInf, .finite (-1)⟩ ∧ gatePasses (live [good, good, good, good, good]) ∧
    (live [good, good, good, good, good]).env.succeeds 5 ∧ (live [good, good, good, good, good]).power = .awake := by
  decide +kernel

theorem witness_WrIcfgRejectsNaNBeforeTheGate : ¬ validLimits ⟨true, true, .finite 30, .finite 10, .nan⟩ := by
  decide +kernel

theorem witness_WrIcfgFailingLateKeepsEarlierWrites : (live [good, good, good, nack]).cfg.rm.registersApart ∧
    validLimits ⟨true, true, .finite 30, .finite 10, .finite 2⟩ ∧ (live [good, good, good, nack]).mode = .awake ∧
    (live [good, good, good, nack]).power = .awake ∧ (live [good, good, good, nack]).env.succeeds 3 ∧
    ((live [good, good, good, nack]).env.after 3).answer.error = some .nack := by decide +kernel

theorem witness_RdIntIsInterruptOrDisabled : (live [good, good]).env.succeeds 2 ∧ (live [good, good]).power = .awake ∧
    (live [good, good]).cfg.rm.registersApart := by decide

theorem witness_StatPresentsInterruptWhileDisabled : ∃ b u, (live [good]).cfg.rm.registersApart ∧
    (live [good]).power = .awake ∧ memRead 0x50 (live [good]).cfg.rm.stat (live [good]) = .ok b u :=
  ⟨_, _, by decide, rfl, rfl⟩

theorem witness_FlagReadsReportTheHeldFlags : (live [good]).cfg.rm.registersApart ∧
    (live [good]).cfg.rm.statusBitsDiffer ∧ (live [good]).env.answer.error = none ∧ (live [good]).power = .awake := by
  decide

theorem witness_RstFlagsClearsAllThree : (live [good]).cfg.rm.WellFormed ∧ (live [good]).env.answer.error = none ∧
    (live [good]).power = .awake ∧ (live [good]).env.noFrames 1 := by decide

theorem witness_SingleFlagResetsAreIsolated : (live [good]).cfg.rm.WellFormed ∧ (live [good]).env.answer.error = none ∧
    (live [good]).power = .awake ∧ (live [good]).env.noFrames 1 := by decide

/-- SCOPE_ENTER that is OK and one that is not; a program with a scope and an unmatched exit, and no scope open before it. -/
theorem witness_ScopeAlwaysRunsToItsExit : ∃ t u,
    HostProgram.bodyWellFormed (.command ⟨0x30, .none⟩ (.wrFrString "slow" .done)) = true ∧
    issue (encode .scopeEnter) (asleepWith [] [good]) = some (t, .ok) ∧
    issue (encode .scopeEnter) (asleepWith [] [nack]) = some (u, .transferError) ∧
    HostProgram.wellFormed (.scope (.command ⟨0x30, .none⟩ .done) (.command ⟨0x24, .none⟩ .done)) = true ∧
    State.reset.scopeActive = false :=
  ⟨_, _, by decide, rfl, rfl, by decide, rfl⟩

/-- One exit that ends OK, one that fails. -/
theorem witness_ScopeAlwaysReleases : ∃ t u, HostProgram.bodyWellFormed .done = true ∧ noSleep .done ∧
    runScope .done (asleepWith [] [good, good]) = some (t, .scope .ok .ok) ∧
    runScope .done (asleepWith [] [good, nack]) = some (u, .scope .ok .transferError) :=
  ⟨_, _, rfl, trivial, rfl, rfl⟩

theorem witness_BadRateStringIssuesNoWrite : "fast" ≠ "low" ∧ "fast" ≠ "high" := by decide

end Sys2Proof.Tests
end

namespace Sys2Proof.Machine

open Sys2Proof.Claims

/-! ### What a command's body can do to the state

Said once, over every instruction: the body issues transfers, passes the gate, and sets `mode` and `scope_active`, each
only where its rule lets it. The statements about fields and about the invariant follow from this. -/

/-- `P` holds of the state a command's step has come to, whether it is on with a value or ended. -/
def Res.Keeps {α : Type} (P : State → Prop) (r : Res α) : Prop := r.Holds (fun _ => P) (fun _ => P)

section keeps
variable {α β : Type} {P P' : State → Prop} {r : Res α}

theorem Res.Keeps.andThen {k : α → State → Res β} (h : r.Keeps P) (hk : ∀ a s, P s → (k a s).Keeps P) :
    (r.andThen k).Keeps P := by
  cases r with
  | ok a s => exact hk a s h
  | stop e s => exact h

theorem Res.Keeps.nothing {r : Res Unit} (h : r.Keeps P) : (nothing r).Keeps P :=
  h.andThen fun _ _ hs => hs

theorem Res.Keeps.mono (h : r.Keeps P) (hP : ∀ s, P s → P' s) : r.Keeps P' := by
  cases r <;> exact hP _ h

end keeps

/-- The commands that write PCTL and follow it with `mode` (R143, R144, R146, R147). -/
def SetsPower : Instr → Prop
  | .wake | .sleep | .scopeEnter | .scopeExit => True
  | _ => False

/-- What one transfer of command `i` makes of the state: a read leaves what the frame events left (R42); a write, which goes
to a register of the command's own list, has the sensor take some bytes of that register (R43, R44). -/
inductive Transfer (i : Instr) (s : State) : State → Prop
  | read (c : BusCall) : Transfer i s (record c (beforeTransfer s))
  | write {n : Nat} (a : RegBase n) (c : BusCall) (failed : Bool) (cells : List Host.Cell)
      (ha : (.write, a.val, n) ∈ transfersOf s.cfg.rm i) (hc : ∀ d ∈ cells, a.val ≤ d.1 ∧ d.1 < a.val + n) :
      Transfer i s (record c (sensorTakes failed s.env.answer a.val cells (beforeTransfer s)))

/-- One thing that the body of command `i` does to the state. -/
inductive Update (i : Instr) (s : State) : State → Prop
  | transfer {t : State} (h : Transfer i s t) : Update i s t
  | gate (hi : ReachesGate i) : Update i s (s.withGate true)
  | mode (hi : SetsPower i) (x : Mode) : Update i s (s.withMode x)
  | scope (hi : i = .scopeEnter ∨ i = .scopeExit) (x : Bool) : Update i s (s.withScope x)

/-- Any number of transfers. -/
abbrev Transfers (i : Instr) : State → State → Prop := Relation.ReflTransGen (Transfer i)

/-- Any number of updates. -/
abbrev Updates (i : Instr) : State → State → Prop := Relation.ReflTransGen (Update i)

theorem Transfers.updates {i : Instr} {s t : State} (h : Transfers i s t) : Updates i s t :=
  Relation.ReflTransGen.mono (fun _ _ => Update.transfer) s t h

/-- A property that one step of a relation keeps is kept by any number of them. -/
theorem keeps_of_steps {r : State → State → Prop} {P : State → Prop} (hP : ∀ s t, r s t → P s → P t) {s t : State}
    (h : Relation.ReflTransGen r s t) (hs : P s) : P t := by
  induction h with
  | refl => exact hs
  | tail _ hu ih => exact hP _ _ hu ih

/-! ### The shared operations as transfers and updates -/

section operations
variable {n : Nat} {i : Instr} {op : Byte} {s₀ s : State}

theorem memRead_transfers {a : RegBase n} (hs : Transfers i s₀ s) : (memRead op a s).Keeps (Transfers i s₀) :=
  memRead_holds (fun _ _ _ => hs.tail (.read _)) (fun _ _ => hs.tail (.read _))

theorem memWrite_transfers {a : RegBase n} {v : Vector Byte n} (ha : (.write, a.val, n) ∈ transfersOf s.cfg.rm i)
    (hs : Transfers i s₀ s) : (memWrite op a v s).Keeps (Transfers i s₀) := by
  have hall : ∀ d ∈ cellsFrom a.val v.toList, a.val ≤ d.1 ∧ d.1 < a.val + n := fun d hd => by
    simpa using cellsFrom_addr d hd
  exact memWrite_holds (fun _ => hs.tail (.write a _ _ _ ha hall))
    (fun _ _ => hs.tail (.write a _ _ _ ha fun d hd => hall d (cellsTaken_subset _ _ _ d hd)))

theorem rmw_transfers {a : RegBase 1} {p : Fin 8} {x : Bool} (ha : (.write, a.val, 1) ∈ transfersOf s.cfg.rm i)
    (hs : Transfers i s₀ s) : (rmw op a p x s).Keeps (Transfers i s₀) :=
  Res.holds_andThen (memRead_holds (fun _ _ _ => memWrite_transfers ha (hs.tail (.read _)))
    (fun _ _ => hs.tail (.read _)))

/-- The power write: it sets `mode` when it succeeds, and when it fails ends the command with a TRANSFER_ERROR
(R143, R144). -/
theorem setPower_holds {x : Mode} {Q : Unit → State → Prop} {E : Stop → State → Prop}
    (hw : (.write, s.cfg.rm.pctl.val, 1) ∈ transfersOf s.cfg.rm i)
    (hok : ∀ t, Transfer i s t → Q () (t.withMode x))
    (herr : ∀ e t, e.status = .transferError → Transfer i s t → E e t) : (setPower op x s).Holds Q E := by
  have hall : ∀ d ∈ cellsFrom s.cfg.rm.pctl.val #v[powerCode s.cfg.rm x].toList,
      s.cfg.rm.pctl.val ≤ d.1 ∧ d.1 < s.cfg.rm.pctl.val + 1 := fun d hd => cellsFrom_addr d hd
  exact Res.holds_andThen (memWrite_holds (fun _ => hok _ (.write _ _ _ _ hw hall))
    (fun _ _ => herr _ _ rfl (.write _ _ _ _ hw fun d hd => hall d (cellsTaken_subset _ _ _ d hd))))

theorem setPower_updates {x : Mode} (hi : SetsPower i) (hw : (.write, s.cfg.rm.pctl.val, 1) ∈ transfersOf s.cfg.rm i)
    (hs : Updates i s₀ s) : (setPower op x s).Keeps (Updates i s₀) :=
  setPower_holds hw (fun _ ht => (hs.tail (.transfer ht)).tail (.mode hi x)) (fun _ _ _ ht => hs.tail (.transfer ht))

theorem encodeOrRaise_keeps {t : TempIn} {p : Profile} {f : Option LimitField} {P : State → Prop} (hs : P s) :
    (encodeOrRaise t p f s).Keeps P :=
  encodeOrRaise_holds (fun _ _ => hs) (fun _ => hs)

end operations

/-- A temperature that is no NaN encodes, whatever the state. -/
theorem encodeOrRaise_of_ne_nan {t : TempIn} (p : Profile) (h : t ≠ .nan) :
    ∃ b, ∀ f s, encodeOrRaise t p f s = .ok b s := by
  cases ht : encodeTemperature t p with
  | some b => exact ⟨b, fun f s => by simp only [encodeOrRaise, ht]⟩
  | none => cases t <;> simp [encodeTemperature, encodeValue] at ht h

theorem encodeOrRaise_nan (p : Profile) (f : Option LimitField) (s : State) :
    encodeOrRaise .nan p f s = .stop (.range p f) s := rfl

/-! ### Every command -/

/-- WR_ICFG with a NaN ends before the gate and before any transfer (R212, R218). -/
theorem exec_wrIcfg_nan {c : ICfgIn} (h : ¬ validLimits c) (s : State) :
    ∃ e, exec (.wrIcfg c) s = .next (conclude (.stop e (start s))) := by
  simp only [exec, execWrIcfg, perform_eq]
  by_cases hu : c.upper = .nan
  · exact ⟨_, by rw [hu, encodeOrRaise_nan, andThen_stop]⟩
  obtain ⟨bu, eu⟩ := encodeOrRaise_of_ne_nan .pixel hu
  by_cases hl : c.lower = .nan
  · exact ⟨_, by rw [eu, andThen_ok, hl, encodeOrRaise_nan, andThen_stop]⟩
  obtain ⟨bl, el⟩ := encodeOrRaise_of_ne_nan .pixel hl
  have hh : c.hysteresis = .nan := by_contra fun hh => h ⟨hu, hl, hh⟩
  exact ⟨_, by rw [eu, andThen_ok, el, andThen_ok, hh, encodeOrRaise_nan, andThen_stop]⟩

/-- A command that reaches the gate passes it first, and after it only issues transfers (R140, R160, R161, R175, R176). -/
theorem exec_gated {i : Instr} (hi : ReachesGate i) :
    ∃ k : State → Res Value, (∀ s, exec i s = .next (conclude ((gateCheck (start s)).andThen fun _ u => k u))) ∧
      ∀ u, (k u).Keeps (Transfers i u) := by
  cases i with
  | image | devtemp => exact ⟨_, fun _ => rfl, fun _ => (memRead_transfers .refl).andThen fun _ _ h => h⟩
  | disInt => exact ⟨_, fun _ => rfl, fun _ => (rmw_transfers (by simp [transfersOf]) .refl).nothing⟩
  | wrIcfg c =>
    obtain ⟨hu, hl, hh⟩ := hi
    obtain ⟨bu, eu⟩ := encodeOrRaise_of_ne_nan .pixel hu
    obtain ⟨bl, el⟩ := encodeOrRaise_of_ne_nan .pixel hl
    obtain ⟨bh, eh⟩ := encodeOrRaise_of_ne_nan .hyst hh
    refine ⟨_, fun s => by simp only [exec, execWrIcfg, perform_eq, eu, el, eh, andThen_ok]; rfl, fun u => ?_⟩
    refine (memRead_transfers .refl).andThen fun old _ h => ?_
    refine (memWrite_transfers (by simp [transfersOf]) h).andThen fun _ _ h => ?_
    refine (memWrite_transfers (by simp [transfersOf]) h).andThen fun _ _ h => ?_
    refine (memWrite_transfers (by simp [transfersOf]) h).andThen fun _ _ h => ?_
    exact (memWrite_transfers (by simp [transfersOf]) h).nothing
  | _ => exact hi.elim

/-- A power command issues its transfer and sets `mode`, and a scope command its bit (R143, R144, R146, R147). -/
theorem exec_power {i : Instr} (hi : SetsPower i) (s : State) :
    ∃ r : Res Value, exec i s = .next (conclude r) ∧ r.Keeps (Updates i (start s)) := by
  cases i with
  | wake | sleep => exact ⟨_, rfl, (setPower_updates hi (by simp [transfersOf]) .refl).nothing⟩
  | scopeEnter =>
    refine ⟨_, rfl, ?_⟩
    dsimp only
    split
    · exact .refl
    · exact Res.Keeps.nothing (Res.Keeps.andThen (setPower_updates hi (by simp [transfersOf]) .refl)
        fun _ _ h => h.tail (.scope (.inl rfl) true))
  | scopeExit =>
    refine ⟨_, rfl, ?_⟩
    dsimp only
    split
    · exact (setPower_updates hi (by simp [transfersOf]) (.single (.scope (.inr rfl) false))).nothing
    · exact .refl
  | _ => exact hi.elim

/-- Every other command, and a WR_ICFG with a NaN, issues transfers and does nothing else. -/
theorem exec_transfers {i : Instr} (hg : ¬ ReachesGate i) (hp : ¬ SetsPower i) (s : State) :
    ∃ r : Res Value, exec i s = .next (conclude r) ∧ r.Keeps (Transfers i (start s)) := by
  cases i with
  | wake | sleep | scopeEnter | scopeExit => exact absurd trivial hp
  | image | devtemp | disInt => exact absurd trivial hg
  | wrIcfg c =>
    obtain ⟨e, he⟩ := exec_wrIcfg_nan hg s
    exact ⟨_, he, .refl⟩
  | enctPix | enctDev | enctHys => exact ⟨_, rfl, (encodeOrRaise_keeps .refl).andThen fun _ _ h => h⟩
  | parseFr str =>
    refine ⟨_, rfl, ?_⟩
    split <;> exact .refl
  | rdFr | rdMa | rdPxint | rdOvf => exact ⟨_, rfl, (memRead_transfers .refl).andThen fun _ _ h => h⟩
  | rdInt =>
    exact ⟨_, rfl, (memRead_transfers .refl).andThen fun _ _ h => (memRead_transfers h).andThen fun _ _ h => h⟩
  | rdIcfg =>
    exact ⟨_, rfl, (memRead_transfers .refl).andThen fun _ _ h => (memRead_transfers h).andThen fun _ _ h =>
      (memRead_transfers h).andThen fun _ _ h => (memRead_transfers h).andThen fun _ _ h => h⟩
  | wrFr | wrMa => exact ⟨_, rfl, (rmw_transfers (by simp [transfersOf]) .refl).nothing⟩
  | rstInt | rstOvf | rstFlags => exact ⟨_, rfl, (memWrite_transfers (by simp [transfersOf]) .refl).nothing⟩
  | _ => exact ⟨_, rfl, .refl⟩

/-- Whatever the command, it ends in the conclusion of a body that came to its last state by updates. -/
theorem exec_updates (i : Instr) (s : State) :
    ∃ r : Res Value, exec i s = .next (conclude r) ∧ r.Keeps (Updates i (start s)) := by
  by_cases hp : SetsPower i
  · exact exec_power hp s
  by_cases hg : ReachesGate i
  · obtain ⟨k, e, hk⟩ := exec_gated hg
    refine ⟨_, e s, Res.Keeps.andThen (P := Updates i (start s)) ?_ fun _ u hu => ?_⟩
    · exact gateCheck_holds (fun _ => .refl) (fun _ _ => .single (.gate hg)) (fun _ _ => .refl)
    · exact (hk u).mono fun _ h => hu.trans (Transfers.updates h)
  · obtain ⟨r, e, hr⟩ := exec_transfers hg hp s
    exact ⟨r, e, hr.mono fun _ => Transfers.updates⟩

end Sys2Proof.Machine

namespace Sys2Proof.Machine

open Sys2Proof.Claims

/-! ### What transfers and updates leave unchanged -/

section fields
variable {i : Instr} {s t : State}

theorem Transfer.cfg (h : Transfer i s t) : t.cfg = s.cfg := by cases h <;> simp
theorem Transfer.scopeActive (h : Transfer i s t) : t.scopeActive = s.scopeActive := by cases h <;> simp
theorem Transfer.gateViolation (h : Transfer i s t) : t.gateViolation = s.gateViolation := by cases h <;> simp
theorem Transfer.refused (h : Transfer i s t) : t.refused = s.refused := by cases h <;> simp

theorem Update.cfg (h : Update i s t) : t.cfg = s.cfg := by
  cases h with
  | transfer h => exact h.cfg
  | gate | mode | scope => rfl

theorem Update.refused (h : Update i s t) : t.refused = s.refused := by
  cases h with
  | transfer h => exact h.refused
  | gate | mode | scope => rfl

theorem Update.scopeActive (he : i ≠ .scopeEnter) (hx : i ≠ .scopeExit) (h : Update i s t) :
    t.scopeActive = s.scopeActive := by
  cases h with
  | transfer h => exact h.scopeActive
  | gate | mode => rfl
  | scope hi => exact (hi.elim he hx).elim

theorem Update.gateViolation (hg : ¬ ReachesGate i) (h : Update i s t) : t.gateViolation = s.gateViolation := by
  cases h with
  | transfer h => exact h.gateViolation
  | gate hi => exact absurd hi hg
  | mode | scope => rfl

end fields

/-- A field that each step of a relation leaves is left by any number of them. -/
theorem field_of_steps {β : Type} {r : State → State → Prop} {f : State → β} (hf : ∀ s t, r s t → f t = f s)
    {s t : State} (h : Relation.ReflTransGen r s t) : f t = f s :=
  keeps_of_steps (P := fun u => f u = f s) (fun u v hr hu => (hf u v hr).trans hu) h rfl

/-! ### Concluding a command -/

@[simp] theorem lastStatus_deliver (v : Value) (s : State) : (deliver v s).lastStatus = .ok := rfl
@[simp] theorem lastStatus_raise (e : Stop) (s : State) : (raise e s).lastStatus = e.status := rfl

theorem Stop.status_ne_ok (e : Stop) : e.status ≠ .ok := by cases e <;> simp [Stop.status]

/-- The endings that are refusals are those with the status of one (R210). -/
theorem isRefusal_status (e : Stop) : isRefusal e.status ↔ e.isRefusal = true := by
  cases e <;> simp [isRefusal, Stop.status, Stop.isRefusal]

theorem illegalCommand_eq (s : State) : illegalCommand s = conclude (.stop .illegal (start s)) := rfl

/-- The answer has a result exactly when its status is OK (R79, R219). -/
theorem conclude_reply (r : Res Value) : ∃ rep, (conclude r).reply = some rep ∧ rep.status = (conclude r).lastStatus ∧
    (rep.status = .ok ↔ rep.result.isSome) := by
  cases r with
  | ok v s => exact ⟨_, rfl, rfl, by simp⟩
  | stop e s => exact ⟨_, rfl, rfl, by simp [e.status_ne_ok]⟩

/-- Concluding sets the refusal mark exactly when the status is a refusal (R24). -/
theorem conclude_refused {r : Res Value} {b : Bool} (h : r.Keeps (·.refused = b)) :
    (conclude r).refused = true ↔ b = true ∨ isRefusal (conclude r).lastStatus := by
  cases r with
  | ok v s =>
    have hb : s.refused = b := h
    simp [hb]
  | stop e s =>
    have hb : s.refused = b := h
    rw [conclude_stop, lastStatus_raise, isRefusal_status, raise_refused, hb, Bool.or_eq_true]

/-! ### The step -/

/-- Any number of updates of a command the block performs, whichever it is. -/
abbrev BlockUpdates : State → State → Prop := Relation.ReflTransGen fun s t => ∃ i, Update i s t

/-- The block's step performs the instruction the port's command decodes to, or refuses a reserved code (R58, R214). -/
theorem blockStep_next {s t : State} {c : Command} {rest : List Command} (hp : s.port = c :: rest)
    (h : blockStep s = .next t) :
    (∃ i, exec i (s.withPort rest) = .next t) ∨ t = illegalCommand (s.withPort rest) := by
  simp only [blockStep, hp] at h
  split at h
  · exact .inl ⟨_, h⟩
  · cases h
    exact .inr rfl
  · cases h

/-- Either way it concludes a body that came to its last state by updates. -/
theorem blockStep_concludes {s t : State} {c : Command} {rest : List Command} (hp : s.port = c :: rest)
    (h : blockStep s = .next t) :
    ∃ r : Res Value, t = conclude r ∧ r.Keeps (BlockUpdates (start (s.withPort rest))) := by
  rcases blockStep_next hp h with ⟨i, h⟩ | h
  · obtain ⟨r, e, hr⟩ := exec_updates i (s.withPort rest)
    rw [e] at h
    cases h
    exact ⟨r, rfl, hr.mono fun u hu => Relation.ReflTransGen.mono (fun _ _ hx => ⟨i, hx⟩) _ u hu⟩
  · exact ⟨.stop .illegal _, h, .refl⟩

/-- A step is a frame event of the environment, a wait of the block at an empty port, or the conclusion of a command. -/
theorem step_next_cases {s t : State} (h : step s = .next t) :
    (∃ changes env turns, t = ((frameStep changes s).withEnv env).withTurns turns) ∨
    (∃ turns, t = s.withTurns turns) ∨
    ∃ (rest : List Command) (r : Res Value), s.port ≠ [] ∧ s.environmentMoves = false ∧ t = conclude r ∧
      r.Keeps (BlockUpdates (start ((s.withTurns s.turns.tail).withPort rest))) := by
  rcases step_cases s with ⟨changes, env, turns, e⟩ | ⟨turns, _, e⟩ | ⟨c, rest, hp, hm, e⟩ <;> rw [e] at h
  · cases h
    exact .inl ⟨_, _, _, rfl⟩
  · cases h
    exact .inr (.inl ⟨_, rfl⟩)
  · obtain ⟨r, ht, hr⟩ := blockStep_concludes (s := s.withTurns s.turns.tail) hp h
    exact .inr (.inr ⟨rest, r, by simp [hp], hm, ht, hr⟩)

/-! ### The sensor's part of the invariant -/

/-- A status reset touches STAT and the per-pixel flags, so no register outside class D (R54). -/
theorem byteAt_resetFlags {m : RegMap} {ans : BusAnswer} {mem : Memory} {d : Host.Cell} {b : Nat}
    (hb : isSensorDriven m b = false) : (resetFlags m ans mem d).byteAt b = mem.byteAt b := by
  have hstat : b ≠ m.stat.val := ne_stat_of_not_sensorDriven hb
  have hpxf : within b m.pxfBase.val 8 = false := by
    simp only [isSensorDriven, Bool.or_eq_false_iff] at hb
    exact hb.1.1.2
  unfold resetFlags
  split
  · simp [clearInt, byteAt_clearStatBit, hstat]
  split
  · simp [clearOvf, byteAt_clearStatBit, hstat]
  split
  · simp [clearAll, byteAt_clearPixelFlags, byteAt_clearStatBit, hstat, hpxf]
  · refine Memory.byteAt_change_of_not_mem _ _ _ fun e he hbe => ?_
    simp [hbe, hstat, hpxf] at he

/-- A byte taken at a register of class C or X leaves every other register outside class D. -/
theorem byteAt_takeByte_of_ne {m : RegMap} {ans : BusAnswer} {mem : Memory} {d : Host.Cell} {b : Nat}
    (hd : classOf m d.1 = .stored ∨ classOf m d.1 = .reset) (hne : b ≠ d.1) (hb : isSensorDriven m b = false) :
    (takeByte m ans mem d).byteAt b = mem.byteAt b := by
  unfold takeByte
  rcases hd with hd | hd <;> rw [hd]
  · exact (Memory.byteAt_write ..).trans (if_neg hne)
  · exact byteAt_resetFlags hb

theorem byteAt_foldl_takeByte_of_ne {m : RegMap} {ans : BusAnswer} {cells : List Host.Cell} {mem : Memory} {b : Nat}
    (hcells : ∀ d ∈ cells, (classOf m d.1 = .stored ∨ classOf m d.1 = .reset) ∧ b ≠ d.1)
    (hb : isSensorDriven m b = false) : (cells.foldl (takeByte m ans) mem).byteAt b = mem.byteAt b := by
  induction cells generalizing mem with
  | nil => rfl
  | cons d cells ih =>
    obtain ⟨hd, hne⟩ := hcells d (by simp)
    exact (ih fun e he => hcells e (by simp [he])).trans (byteAt_takeByte_of_ne hd hne hb)

/-- The spans that commands write, by place in `RegMap.spans`: those of class C, then those of class X (R51). -/
abbrev SpanWritten (j : Fin 13) : Prop :=
  (j = 0 ∨ j = 2 ∨ j = 3 ∨ j = 6 ∨ j = 7 ∨ j = 8 ∨ j = 9) ∨ j = 1 ∨ j = 5

/-- Every write a command lists is of one whole named register of class C or X (R51, R196). -/
theorem write_span {m : RegMap} (h : m.patternsOnResetRegisters) {i : Instr} {a n : Nat}
    (ha : (.write, a, n) ∈ transfersOf m i) :
    ∃ j : Fin 13, m.spans.get j = (a, n) ∧ SpanWritten j := by
  have hreset : ∀ {x : RegBase 1}, (x = m.sclr ∨ x = m.rst) →
      ∃ j : Fin 13, m.spans.get j = (x.val, 1) ∧ SpanWritten j := by
    rintro _ (rfl | rfl)
    · exact ⟨5, rfl, by decide⟩
    · exact ⟨1, rfl, by decide⟩
  obtain ⟨hint, hovf, hall⟩ := h
  cases i with
  | wake | sleep | scopeEnter | scopeExit =>
    obtain ⟨rfl, rfl⟩ : a = m.pctl.val ∧ n = 1 := by simpa [transfersOf] using ha
    exact ⟨0, rfl, by decide⟩
  | wrFr =>
    obtain ⟨rfl, rfl⟩ : a = m.fpsc.val ∧ n = 1 := by simpa [transfersOf] using ha
    exact ⟨2, rfl, by decide⟩
  | wrMa =>
    obtain ⟨rfl, rfl⟩ : a = m.ave.val ∧ n = 1 := by simpa [transfersOf] using ha
    exact ⟨6, rfl, by decide⟩
  | disInt =>
    obtain ⟨rfl, rfl⟩ : a = m.intc.val ∧ n = 1 := by simpa [transfersOf] using ha
    exact ⟨3, rfl, by decide⟩
  | wrIcfg =>
    obtain ⟨rfl, rfl⟩ | ⟨rfl, rfl⟩ | ⟨rfl, rfl⟩ | ⟨rfl, rfl⟩ : (a = m.inth.val ∧ n = 2) ∨ (a = m.intl.val ∧ n = 2) ∨
        (a = m.ihys.val ∧ n = 2) ∨ (a = m.intc.val ∧ n = 1) := by simpa [transfersOf] using ha
    · exact ⟨7, rfl, by decide⟩
    · exact ⟨8, rfl, by decide⟩
    · exact ⟨9, rfl, by decide⟩
    · exact ⟨3, rfl, by decide⟩
  | rstInt =>
    obtain ⟨rfl, rfl⟩ : a = m.rstIntPat.1.val ∧ n = 1 := by simpa [transfersOf] using ha
    exact hreset hint
  | rstOvf =>
    obtain ⟨rfl, rfl⟩ : a = m.rstOvfPat.1.val ∧ n = 1 := by simpa [transfersOf] using ha
    exact hreset hovf
  | rstFlags =>
    obtain ⟨rfl, rfl⟩ : a = m.rstAllPat.1.val ∧ n = 1 := by simpa [transfersOf] using ha
    exact hreset hall
  | _ => simp [transfersOf] at ha

/-- The registers such a write names are of class C or X, and PCTL is one of them only in the write of PCTL. -/
theorem write_class {m : RegMap} (h : m.WellFormed) {i : Instr} {a n b : Nat}
    (ha : (.write, a, n) ∈ transfersOf m i) (hb : a ≤ b ∧ b < a + n) :
    (classOf m b = .stored ∨ classOf m b = .reset) ∧ (a ≠ m.pctl.val → m.pctl.val ≠ b) := by
  obtain ⟨hapart, _, _, _, hpat, _⟩ := h
  obtain ⟨j, hj, hclass⟩ := write_span hpat ha
  have hspan : inSpan m b j := by rw [inSpan, hj]; exact hb
  constructor
  · rcases hclass with hstored | hreset
    · exact .inl (classOf_stored ((isStored_iff m b).2 ⟨j, hspan, hstored⟩))
    · exact .inr (classOf_reset hapart ((isReset_iff m b).2 ⟨j, hspan, hreset⟩)).2.2
  · rintro hne rfl
    obtain rfl : j = 0 := inSpan_unique hapart hspan ((inSpan_pctl m _).2 rfl)
    exact hne (Prod.mk.inj hj).1.symm

theorem decodePower_awake {m : RegMap} {v : Byte} (h : decodePower m v = .awake) : v = m.pctlAwake := by
  unfold decodePower at h
  split at h
  · assumption
  · split at h <;> cases h

/-- A PCTL write leaves the sensor awake only when PCTL's byte is the awake encoding (R56). -/
theorem powerAfter_awake {m : RegMap} {failed : Bool} {v : Byte} (h : powerAfter m failed v = .awake) :
    v = m.pctlAwake := by
  unfold powerAfter at h
  split at h
  · cases h
  · split at h
    · exact decodePower_awake ‹_›
    · cases h
    · cases h

/-- The invariant's clauses about `Cfg` and the sensor. -/
structure SensorInv (s : State) : Prop where
  map : s.cfg.rm.WellFormed
  mem : s.mem.wf = true
  power : s.power = .awake → s.mem.byteAt s.cfg.rm.pctl.val = s.cfg.rm.pctlAwake

section sensorInv
variable {i : Instr} {s t : State}

theorem isSensorDriven_pctl {m : RegMap} (h : m.WellFormed) : isSensorDriven m m.pctl.val = false :=
  not_sensorDriven_of_stored h.1 (isStored_pctl m)

/-- Frame events change no register but sensor-driven ones, and PCTL is none (R57). -/
theorem SensorInv.frameStep (h : SensorInv s) (frames : List RegValue) : SensorInv (frameStep frames s) :=
  ⟨h.map, wf_frameEvents h.mem, fun hp => (byteAt_frameEvents (isSensorDriven_pctl h.map)).trans (h.power hp)⟩

theorem SensorInv.beforeTransfer (h : SensorInv s) : SensorInv (beforeTransfer s) :=
  let ⟨hmap, hmem, hpower⟩ := h.frameStep s.env.answer.frames
  ⟨hmap, hmem, hpower⟩

/-- The power clause through a write: a write of PCTL sets the power state from the byte PCTL then holds; another write
leaves the power state, and at an awake sensor PCTL too. -/
theorem SensorInv.sensorTakes (h : SensorInv s) {n : Nat} {a : RegBase n} {failed : Bool} {ans : BusAnswer}
    {cells : List Host.Cell} (ha : (.write, a.val, n) ∈ transfersOf s.cfg.rm i)
    (hc : ∀ d ∈ cells, a.val ≤ d.1 ∧ d.1 < a.val + n) : SensorInv (sensorTakes failed ans a.val cells s) := by
  have hlt : ∀ d ∈ cells, d.1 < 256 := fun d hd => by
    have := hc d hd
    have := a.isLt
    omega
  refine ⟨by simpa using h.map, wf_sensorTakes h.mem hlt, fun hp => ?_⟩
  rw [sensorTakes_cfg]
  by_cases hpctl : a.val = s.cfg.rm.pctl.val
  · simp only [Machine.sensorTakes, hpctl, if_true] at hp ⊢
    exact powerAfter_awake hp
  · rw [sensorTakes_power hpctl] at hp
    rw [sensorTakes_mem_awake hpctl hp, byteAt_foldl_takeByte_of_ne _ (isSensorDriven_pctl h.map), h.power hp]
    intro d hd
    obtain ⟨hclass, hne⟩ := write_class h.map ha (hc d hd)
    exact ⟨hclass, hne hpctl⟩

theorem Update.sensorInv (hu : Update i s t) (h : SensorInv s) : SensorInv t := by
  cases hu with
  | transfer ht =>
    cases ht with
    | read c =>
      obtain ⟨hmap, hmem, hpower⟩ := h.beforeTransfer
      exact ⟨hmap, hmem, hpower⟩
    | write a c failed cells ha hc =>
      obtain ⟨hmap, hmem, hpower⟩ := h.beforeTransfer.sensorTakes (ans := s.env.answer) (failed := failed) ha hc
      exact ⟨hmap, hmem, hpower⟩
  | gate | mode | scope => exact ⟨h.map, h.mem, h.power⟩

theorem conclude_sensorInv {r : Res Value} (h : r.Keeps SensorInv) : SensorInv (conclude r) := by
  cases r <;> exact ⟨h.map, h.mem, h.power⟩

end sensorInv

end Sys2Proof.Machine

namespace Sys2Proof.Machine

open Sys2Proof.Claims

/-! ### The invariant, step by step -/

theorem sensorInv_of_inv {s : State} (h : Inv s) : SensorInv s := ⟨h.map, h.mem, h.power⟩

theorem BlockUpdates.cfg {s t : State} (h : BlockUpdates s t) : t.cfg = s.cfg :=
  field_of_steps (f := (·.cfg)) (fun _ _ ⟨_, hu⟩ => hu.cfg) h

theorem BlockUpdates.refused {s t : State} (h : BlockUpdates s t) : t.refused = s.refused :=
  field_of_steps (f := (·.refused)) (fun _ _ ⟨_, hu⟩ => hu.refused) h

theorem BlockUpdates.sensorInv {s t : State} (h : BlockUpdates s t) (hs : SensorInv s) : SensorInv t :=
  keeps_of_steps (fun _ _ ⟨_, hu⟩ => hu.sensorInv) h hs

/-- The conclusion of a body has the invariant when the body kept the sensor's part of it and the refusal mark. -/
theorem conclude_inv {r : Res Value} {b : Bool} (hs : r.Keeps SensorInv) (hb : r.Keeps (·.refused = b)) :
    Inv (conclude r) := by
  obtain ⟨hmap, hmem, hpower⟩ := conclude_sensorInv hs
  obtain ⟨rep, hrep, hstatus, hok⟩ := conclude_reply r
  refine ⟨hmap, hmem, hpower, fun rep' h => ?_⟩
  obtain rfl : rep = rep' := Option.some.inj (hrep.symm.trans h)
  exact ⟨hok, fun hr => (conclude_refused hb).2 (.inr (hstatus ▸ hr))⟩

/-- Settles O8: a frame event keeps PCTL and the answer; a command's updates keep the sensor's part, and its conclusion sets
the answer and the mark together. -/
theorem stepKeepsTheInvariant : Obligations.StepKeepsTheInvariant := by
  intro s t hs h
  rcases step_next_cases h with ⟨changes, env, turns, rfl⟩ | ⟨turns, rfl⟩ | ⟨rest, r, -, -, rfl, hr⟩
  · obtain ⟨hmap, hmem, hpower⟩ := (sensorInv_of_inv hs).frameStep changes
    exact ⟨hmap, hmem, hpower, hs.reply⟩
  · exact ⟨hs.map, hs.mem, hs.power, hs.reply⟩
  · have hstart : SensorInv (start ((s.withTurns s.turns.tail).withPort rest)) := ⟨hs.map, hs.mem, hs.power⟩
    exact conclude_inv (hr.mono fun _ hu => BlockUpdates.sensorInv hu hstart)
      (hr.mono fun _ hu => BlockUpdates.refused hu)

/-- Settles O7: an update leaves `Cfg`, and so do a frame event and the conclusion. -/
theorem configurationNeverChanges : Obligations.ConfigurationNeverChanges := by
  intro s t h
  rcases step_next_cases h with ⟨_, _, _, rfl⟩ | ⟨_, rfl⟩ | ⟨rest, r, -, -, rfl, hr⟩
  · rfl
  · rfl
  · exact conclude_of_holds (P := (·.cfg = s.cfg)) (hr.mono fun _ hu => BlockUpdates.cfg hu)

/-- The block's step that takes a command sets the refusal mark exactly when its status is a refusal. -/
theorem blockStep_refused {s t : State} {c : Command} {rest : List Command} (hp : s.port = c :: rest)
    (h : blockStep s = .next t) : t.refused = true ↔ s.refused = true ∨ isRefusal t.lastStatus := by
  obtain ⟨r, rfl, hr⟩ := blockStep_concludes hp h
  exact conclude_refused (hr.mono fun _ hu => (BlockUpdates.refused hu).trans rfl)

/-- Settles O14: the conclusion sets the mark with the status; the environment's steps and a wait leave it. -/
theorem refusedIsStickyAndExact : Obligations.RefusedIsStickyAndExact := by
  intro s t h
  constructor
  · intro hp hm
    obtain ⟨c, rest, hp⟩ := List.exists_cons_of_ne_nil hp
    rw [step_block hp hm] at h
    exact blockStep_refused (s := s.withTurns s.turns.tail) hp h
  · intro hidle
    rcases step_next_cases h with ⟨_, _, _, rfl⟩ | ⟨_, rfl⟩ | ⟨_, _, hp, hm, -, -⟩
    · rfl
    · rfl
    · rcases hidle with hp' | hm'
      · exact absurd hp' hp
      · rw [hm] at hm'
        cases hm'

/-! ### `scope_active` -/

/-- SCOPE_ENTER: refused with the bit set already; otherwise the bit is set when the power write succeeds (R146, R215). -/
theorem scopeEnter_scopeActive {s t : State} (h : exec .scopeEnter s = .next t) :
    t.scopeActive = (s.scopeActive || t.lastStatus == .ok) := by
  cases h
  refine conclude_of_holds (P := fun t => t.scopeActive = (s.scopeActive || t.lastStatus == .ok)) ?_
  dsimp only
  split
  · rename_i hs
    have hs : s.scopeActive = true := hs
    simp [hs]
  · refine Res.holds_nothing (Res.holds_andThen (setPower_holds (i := .scopeEnter) (by simp [transfersOf]) ?_ ?_))
    · intro u _
      simp
    · intro e u he hu
      have hkeep : u.scopeActive = s.scopeActive := hu.scopeActive
      simp [hkeep, he]

/-- SCOPE_EXIT: refused with the bit clear already; otherwise the bit is cleared before the power write (R147, R215). -/
theorem scopeExit_scopeActive {s t : State} (h : exec .scopeExit s = .next t) : t.scopeActive = false := by
  cases h
  refine conclude_of_holds (P := (·.scopeActive = false)) ?_
  dsimp only
  split
  · refine Res.holds_nothing (setPower_holds (i := .scopeExit) (by simp [transfersOf]) ?_ ?_)
    · intro u hu
      simpa using hu.scopeActive
    · intro _ u _ hu
      simpa using hu.scopeActive
  · rename_i hs
    simpa using hs

/-- Settles O12: the two scope commands by their bodies; no other command has an update of the bit. -/
theorem scopeBitFollowsEnterAndExit : Obligations.ScopeBitFollowsEnterAndExit := by
  intro i s t h
  refine ⟨?_, ?_, fun he hx => ?_⟩
  · rintro rfl
    exact scopeEnter_scopeActive h
  · rintro rfl
    exact scopeExit_scopeActive h
  · obtain ⟨r, e, hr⟩ := exec_updates i s
    obtain rfl := Host.Outcome.next.inj (e.symm.trans h)
    exact conclude_of_holds (P := (·.scopeActive = s.scopeActive))
      (hr.mono fun _ hu => field_of_steps (f := (·.scopeActive)) (fun _ _ => Update.scopeActive he hx) hu)

/-! ### `gate_violation` -/

/-- The fault bit at the gate: set when Asleep under ISSUE, and otherwise left (R141, R142). -/
theorem gateCheck_gateViolation (s : State) :
    (gateCheck s).Keeps fun u =>
      u.gateViolation = true ↔ s.gateViolation = true ∨ (s.mode = .asleep ∧ s.cfg.policy = .issue) := by
  refine gateCheck_holds (fun hm => ?_) (fun hm hp => ?_) (fun hm hp => ?_)
  · simp [hm]
  · simp [hm, hp]
  · simp [hp]

theorem gated_gateViolation {i : Instr} (hi : ReachesGate i) {s t : State} (h : exec i s = .next t) :
    t.gateViolation = true ↔ s.gateViolation = true ∨ (s.mode = .asleep ∧ s.cfg.policy = .issue) := by
  obtain ⟨k, e, hk⟩ := exec_gated hi
  obtain rfl := Host.Outcome.next.inj ((e s).symm.trans h)
  refine conclude_of_holds (P := fun t => t.gateViolation = true ↔
    s.gateViolation = true ∨ (s.mode = .asleep ∧ s.cfg.policy = .issue)) ?_
  refine (gateCheck_gateViolation (start s)).andThen fun _ u hu => ?_
  refine (hk u).mono fun v hv => ?_
  have hkeep : v.gateViolation = u.gateViolation :=
    field_of_steps (f := (·.gateViolation)) (fun _ _ => Transfer.gateViolation) hv
  rw [hkeep]
  exact hu

theorem ungated_gateViolation {i : Instr} (hi : ¬ ReachesGate i) {s t : State} (h : exec i s = .next t) :
    t.gateViolation = s.gateViolation := by
  obtain ⟨r, e, hr⟩ := exec_updates i s
  obtain rfl := Host.Outcome.next.inj (e.symm.trans h)
  exact conclude_of_holds (P := (·.gateViolation = s.gateViolation))
    (hr.mono fun _ hu => field_of_steps (f := (·.gateViolation)) (fun _ _ => Update.gateViolation hi) hu)

/-- Settles O13: the gate is the one place where the bit changes. -/
theorem gateViolationIsStickyAndExact : Obligations.GateViolationIsStickyAndExact := by
  intro i s t h
  by_cases hi : ReachesGate i
  · simp only [gated_gateViolation hi h, hi, true_and]
  · simp only [ungated_gateViolation hi h, hi, false_and, or_false]

/-! ### Construction -/

/-- Settles O6. -/
theorem constructionSetsTheBlockBits : Obligations.ConstructionSetsTheBlockBits := by
  intro cfg
  exact ⟨rfl, rfl, rfl, rfl, rfl, rfl, rfl, fun a => Memory.byteAt_nil a⟩

/-- At construction no register is written, the power state is unknown and no command has been answered. -/
theorem inv_construct {cfg : Cfg} (h : cfg.rm.WellFormed) : Inv (State.construct cfg) where
  map := h
  mem := rfl
  power hp := by cases hp
  reply _ hr := by cases hr

theorem referenceCfg_wellFormed : referenceCfg.rm.WellFormed := by decide

/-- Settles O9: the reset state is the construction with the reference map, which is well formed. -/
theorem constructionMeetsTheInvariant : Obligations.ConstructionMeetsTheInvariant :=
  ⟨fun _ h => inv_construct h, inv_construct referenceCfg_wellFormed⟩

end Sys2Proof.Machine

namespace Sys2Proof.Machine

open Sys2Proof.Claims

/-! ### Whose step, and what it performs -/

/-- The block's step of a command that decodes is that instruction's (R58, R70). -/
theorem blockStep_decoded {s : State} {c : Command} {rest : List Command} {i : Instr} (hp : s.port = c :: rest)
    (hd : decode c = .ok i) : blockStep s = exec i (s.withPort rest) := by
  simp only [blockStep, hp, hd]

/-- Settles O4: by whose turn it is. -/
theorem stepPerformsTheDecodedCommand : Obligations.StepPerformsTheDecodedCommand := by
  refine ⟨fun s c rest i hp hd hm => ?_, fun s changes turns h => ?_, fun s ht hp => ?_⟩
  · rw [step_block hp hm]
    exact blockStep_decoded (s := s.withTurns s.turns.tail) hp hd
  · rw [step_frame h]
    rfl
  · exact ⟨Config.freeFrame s.env.count, step_idle ht hp⟩

/-! ### The calls a command issues -/

/-- A call as `transfersOf` lists it: direction, address, length. -/
abbrev callShape (c : BusCall) : Dir × Nat × Nat := (c.dir, c.addr, c.len)

/-- A block with configuration `cf` has issued calls of these shapes, each to its device. -/
structure Issued (cf : Cfg) (calls : List (Dir × Nat × Nat)) (s : State) : Prop where
  cfg : s.cfg = cf
  shapes : s.bus.map callShape = calls
  dev : ∀ c ∈ s.bus, c.dev = cf.devAddr

/-- After calls `before`, the rest of the command issues the calls `todo`: all of them when it goes on, and the first of them
when it ends here. -/
def Res.Issues {α : Type} (cf : Cfg) (before todo : List (Dir × Nat × Nat)) (r : Res α) : Prop :=
  r.Holds (fun _ => Issued cf (before ++ todo)) (fun _ s => ∃ l, l <+: todo ∧ Issued cf (before ++ l) s)

section issues
variable {α β : Type} {cf : Cfg} {before rest : List (Dir × Nat × Nat)} {x : Dir × Nat × Nat} {s : State}

theorem issued_start (s : State) : Issued s.cfg [] (start s) := ⟨rfl, rfl, by simp⟩

theorem Issued.ok (h : Issued cf before s) (a : α) : (Res.ok a s).Issues cf before [] := by
  simpa [Res.Issues] using h

theorem Issued.stop (h : Issued cf before s) (e : Stop) : (Res.stop e s : Res α).Issues cf before rest :=
  ⟨[], List.nil_prefix, by simpa using h⟩

theorem Issued.record (h : Issued cf before s) {c : BusCall} (hx : callShape c = x) (hc : c.dev = cf.devAddr) :
    Issued cf (before ++ [x]) (record c s) := by
  obtain ⟨hcfg, hshapes, hdev⟩ := h
  refine ⟨hcfg, by simp [hshapes, hx], fun d hd => ?_⟩
  rcases List.mem_append.1 hd with hd | hd
  · exact hdev d hd
  · rw [List.mem_singleton.1 hd, hc]

theorem Issued.beforeTransfer (h : Issued cf before s) : Issued cf before (beforeTransfer s) :=
  ⟨h.cfg, h.shapes, h.dev⟩

theorem Issued.sensorTakes (h : Issued cf before s) {f : Bool} {ans : BusAnswer} {a : Nat} {cells : List Host.Cell} :
    Issued cf before (sensorTakes f ans a cells s) :=
  ⟨by simpa using h.cfg, by simpa using h.shapes, by simpa using h.dev⟩

/-- A step without a call, and then the rest of the command. -/
theorem Res.Issues.andThen {r : Res α} {k : α → State → Res β} (hr : r.Keeps (Issued cf before))
    (hk : ∀ a u, Issued cf before u → (k a u).Issues cf before rest) : (r.andThen k).Issues cf before rest := by
  cases r with
  | ok a u => exact hk a u hr
  | stop e u => exact Issued.stop hr e

/-- A transfer issues its one call, also when it fails; then comes the rest of the command. -/
theorem Res.Issues.transfer {r : Res α} {k : α → State → Res β} (hr : r.Keeps (Issued cf (before ++ [x])))
    (hk : ∀ a u, Issued cf (before ++ [x]) u → (k a u).Issues cf (before ++ [x]) rest) :
    (r.andThen k).Issues cf before (x :: rest) := by
  cases r with
  | ok a u =>
    have h := hk a u hr
    rw [andThen_ok]
    cases hr : k a u with
    | ok b v => simpa [hr, Res.Issues] using h
    | stop e v =>
      rw [hr] at h
      obtain ⟨l, hl, hv⟩ := h
      exact ⟨x :: l, List.cons_prefix_cons.2 ⟨rfl, hl⟩, by simpa using hv⟩
  | stop e u => exact ⟨[x], by simp, hr⟩

/-- A transfer that is all that is left of a command. -/
theorem Res.Keeps.issues {r : Res α} (hr : r.Keeps (Issued cf (before ++ [x]))) : r.Issues cf before [x] := by
  cases r with
  | ok a u => exact hr
  | stop e u => exact ⟨[x], List.prefix_rfl, hr⟩

theorem Res.Issues.nothing {r : Res Unit} (h : r.Issues cf before rest) : (nothing r).Issues cf before rest := by
  cases r <;> exact h

/-- A read of the register that `reg` names. -/
theorem memRead_issued {n : Nat} {op : Byte} (reg : RegMap → RegBase n) (h : Issued cf before s) :
    (memRead op (reg s.cfg.rm) s).Keeps (Issued cf (before ++ [(.read, (reg cf.rm).val, n)])) := by
  obtain rfl := h.cfg
  exact memRead_holds (fun _ _ _ => h.beforeTransfer.record rfl rfl) (fun _ _ => h.beforeTransfer.record rfl rfl)

/-- A write of the register that `reg` names. -/
theorem memWrite_issued {n : Nat} {op : Byte} (reg : RegMap → RegBase n) {v : Vector Byte n} (h : Issued cf before s) :
    (memWrite op (reg s.cfg.rm) v s).Keeps (Issued cf (before ++ [(.write, (reg cf.rm).val, n)])) := by
  obtain rfl := h.cfg
  exact memWrite_holds (fun _ => h.beforeTransfer.sensorTakes.record rfl rfl)
    (fun _ _ => h.beforeTransfer.sensorTakes.record rfl rfl)

/-- A read-modify-write is a read and a write of one register (R178). -/
theorem rmw_issues {op : Byte} (reg : RegMap → RegBase 1) {p : Fin 8} {b : Bool} (h : Issued cf before s) :
    (rmw op (reg s.cfg.rm) p b s).Issues cf before [(.read, (reg cf.rm).val, 1), (.write, (reg cf.rm).val, 1)] := by
  obtain rfl := h.cfg
  refine .transfer (memRead_issued reg h) fun old u hu => ?_
  have hw := memWrite_issued (op := op) reg (v := #v[setBit old[0] p b]) hu
  rw [hu.cfg] at hw
  exact hw.issues

/-- The power write, and after it `mode` (R143, R144). -/
theorem setPower_issued {op : Byte} {m : Mode} (h : Issued cf before s) :
    (setPower op m s).Keeps (Issued cf (before ++ [(.write, cf.rm.pctl.val, 1)])) :=
  (memWrite_issued (·.pctl) h).andThen fun _ _ h => ⟨h.cfg, h.shapes, h.dev⟩

theorem gateCheck_issued (h : Issued cf before s) : (gateCheck s).Keeps (Issued cf before) :=
  gateCheck_holds (fun _ => h) (fun _ _ => ⟨h.cfg, h.shapes, h.dev⟩) (fun _ _ => h)

end issues

/-- Every command issues the transfers of its rule: its body, step by step. -/
theorem exec_issues (i : Instr) (s : State) :
    ∃ r : Res Value, exec i s = .next (conclude r) ∧ r.Issues s.cfg [] (transfersOf s.cfg.rm i) := by
  have h := issued_start s
  cases i with
  | wake | sleep => exact ⟨_, rfl, (setPower_issued h).issues.nothing⟩
  | scopeEnter =>
    refine ⟨_, rfl, ?_⟩
    dsimp only
    split
    · exact h.stop _
    · refine Res.Issues.nothing (Res.Keeps.issues ((setPower_issued h).andThen fun _ _ h => ?_))
      exact ⟨h.cfg, h.shapes, h.dev⟩
  | scopeExit =>
    refine ⟨_, rfl, ?_⟩
    dsimp only
    split
    · have h' : Issued s.cfg [] ((start s).withScope false) := ⟨h.cfg, h.shapes, h.dev⟩
      exact (setPower_issued h').issues.nothing
    · exact h.stop _
  | image =>
    exact ⟨_, rfl, .andThen (gateCheck_issued h) fun _ _ h =>
      .transfer (memRead_issued (·.pixBase) h) fun _ _ h => h.ok _⟩
  | devtemp =>
    exact ⟨_, rfl, .andThen (gateCheck_issued h) fun _ _ h =>
      .transfer (memRead_issued (·.tth) h) fun _ _ h => h.ok _⟩
  | rdFr => exact ⟨_, rfl, .transfer (memRead_issued (·.fpsc) h) fun _ _ h => h.ok _⟩
  | rdMa => exact ⟨_, rfl, .transfer (memRead_issued (·.ave) h) fun _ _ h => h.ok _⟩
  | rdPxint => exact ⟨_, rfl, .transfer (memRead_issued (·.pxfBase) h) fun _ _ h => h.ok _⟩
  | rdOvf => exact ⟨_, rfl, .transfer (memRead_issued (·.stat) h) fun _ _ h => h.ok _⟩
  | rdInt =>
    exact ⟨_, rfl, .transfer (memRead_issued (·.intc) h) fun _ _ h =>
      .transfer (memRead_issued (·.stat) h) fun _ _ h => h.ok _⟩
  | rdIcfg =>
    exact ⟨_, rfl, .transfer (memRead_issued (·.intc) h) fun _ _ h =>
      .transfer (memRead_issued (·.inth) h) fun _ _ h => .transfer (memRead_issued (·.intl) h) fun _ _ h =>
      .transfer (memRead_issued (·.ihys) h) fun _ _ h => h.ok _⟩
  | wrFr => exact ⟨_, rfl, (rmw_issues (·.fpsc) h).nothing⟩
  | wrMa => exact ⟨_, rfl, (rmw_issues (·.ave) h).nothing⟩
  | disInt => exact ⟨_, rfl, .andThen (gateCheck_issued h) fun _ _ h => (rmw_issues (·.intc) h).nothing⟩
  | wrIcfg c =>
    exact ⟨_, rfl, .andThen (encodeOrRaise_keeps h) fun _ _ h => .andThen (encodeOrRaise_keeps h) fun _ _ h =>
      .andThen (encodeOrRaise_keeps h) fun _ _ h => .andThen (gateCheck_issued h) fun _ _ h =>
      .transfer (memRead_issued (·.intc) h) fun _ _ h => .transfer (memWrite_issued (·.inth) h) fun _ _ h =>
      .transfer (memWrite_issued (·.intl) h) fun _ _ h => .transfer (memWrite_issued (·.ihys) h) fun _ _ h =>
      (memWrite_issued (·.intc) h).issues.nothing⟩
  | rstInt => exact ⟨_, rfl, (memWrite_issued (·.rstIntPat.1) h).issues.nothing⟩
  | rstOvf => exact ⟨_, rfl, (memWrite_issued (·.rstOvfPat.1) h).issues.nothing⟩
  | rstFlags => exact ⟨_, rfl, (memWrite_issued (·.rstAllPat.1) h).issues.nothing⟩
  | enctPix | enctDev | enctHys => exact ⟨_, rfl, .andThen (encodeOrRaise_keeps h) fun _ _ h => h.ok _⟩
  | parseFr str =>
    refine ⟨_, rfl, ?_⟩
    dsimp only
    split
    · exact h.ok _
    · exact h.stop _
  | _ => exact ⟨_, rfl, h.ok _⟩

/-- Settles O15: a command that ends OK came to the end of its body, and one that does not, to some place in it. -/
theorem commandsIssueExactlyTheirTransfers : Obligations.CommandsIssueExactlyTheirTransfers := by
  intro i s t h
  obtain ⟨r, e, hr⟩ := exec_issues i s
  obtain rfl := Host.Outcome.next.inj (e.symm.trans h)
  cases r with
  | ok v u => exact ⟨hr.shapes ▸ List.prefix_rfl, fun _ => hr.shapes, hr.dev⟩
  | stop x u =>
    obtain ⟨l, hl, hu⟩ := hr
    exact ⟨hu.shapes ▸ hl, fun hok => absurd hok x.status_ne_ok, hu.dev⟩

end Sys2Proof.Machine

namespace Sys2Proof.Machine

open Sys2Proof.Claims

/-! ### A command that goes on to its end -/

/-- A command whose body comes to its end answers OK with its result. -/
theorem next_deliver {r : Res Value} {v : Value} {u : State} (h : r = .ok v u) :
    (.next (conclude r) : Host.Outcome State Fault Refusal) = .next (deliver v u) := by
  rw [h, conclude_ok]

/-- The next step of a command runs from where the one before came to. -/
theorem andThen_of_ok {α β : Type} {r : Res α} {k : α → State → Res β} {a : α} {u : State} (h : r = .ok a u) :
    r.andThen k = k a u := by
  rw [h, andThen_ok]

/-- A command that ends OK came to the end of its body. -/
theorem ok_of_lastStatus {r : Res Value} (h : (conclude r).lastStatus = .ok) : ∃ v u, r = .ok v u := by
  cases r with
  | ok v u => exact ⟨v, u, rfl⟩
  | stop e u => exact absurd h e.status_ne_ok

theorem andThen_eq_ok {α β : Type} {r : Res α} {k : α → State → Res β} {b : β} {t : State}
    (h : r.andThen k = .ok b t) : ∃ a u, r = .ok a u ∧ k a u = .ok b t := by
  cases r with
  | ok a u => exact ⟨a, u, rfl, h⟩
  | stop e u => cases h

theorem nothing_eq_ok {r : Res Unit} {v : Value} {t : State} (h : nothing r = .ok v t) : v = .nothing ∧ r = .ok () t := by
  obtain ⟨⟨⟩, u, rfl, h⟩ := andThen_eq_ok h
  cases h
  exact ⟨rfl, rfl⟩

/-- The gate that lets a command on records that it did (R140, R141). -/
theorem gateCheck_passes {s : State} (h : gatePasses s) : gateCheck s = .ok () (s.withGate (gateAfter s)) := by
  rcases gateCheck_cases s with ⟨hm, e⟩ | ⟨hm, _, e⟩ | ⟨hm, hp, _⟩
  · have hkeep : gateAfter s = s.gateViolation := by simp [hm]
    rw [e, hkeep]
    rfl
  · have hset : gateAfter s = true := by simp [hm]
    rw [e, hset]
  · simp [gatePasses, hm, hp] at h

/-! ### Short vectors by their bytes -/

theorem toList_one (b : Vector Byte 1) : b.toList = [b[0]] := by
  obtain ⟨⟨l⟩, hl⟩ := b
  match l, hl with
  | [_], _ => rfl

theorem toList_two (b : Vector Byte 2) : b.toList = [b[0], b[1]] := by
  obtain ⟨⟨l⟩, hl⟩ := b
  match l, hl with
  | [_, _], _ => rfl

/-! ### Premises about the coming transfers -/

theorem Env.after_add (j k : Nat) (e : Env) : e.after (j + k) = (e.after j).after k := by
  induction j generalizing e with
  | zero => simp [Env.after]
  | succ j ih => rw [Nat.succ_add]; exact ih e.advance

theorem Env.noFrames_add {j k : Nat} {e : Env} (h : e.noFrames (j + k)) : e.noFrames j ∧ (e.after j).noFrames k :=
  ⟨fun i hi => h i (by omega), fun i hi => by rw [← Env.after_add]; exact h (j + i) (by omega)⟩

/-- Frame events before one transfer leave every register but sensor-driven ones (R57). -/
theorem frameEvents_sameBytes {s : State} {a : Nat} (h : isSensorDriven s.cfg.rm a = false ∨ s.env.noFrames 1) :
    (frameEvents s.cfg.rm s.env.answer.frames s.mem).byteAt a = s.mem.byteAt a :=
  frameEvents_other (h.imp_right fun h => h 0 Nat.one_pos)

/-- Where no register was stored to, an awake sensor presents a stored register as it was (R52). -/
theorem presented_stored {s t : State} {k a : Nat} (hframe : SameBytesBut s t k fun _ => False)
    (hap : s.cfg.rm.registersApart) (hst : isStored s.cfg.rm a = true) :
    presented s.cfg.rm t.mem a = s.mem.byteAt a := by
  have hd := not_sensorDriven_of_stored hap hst
  rw [presented_of_ne (ne_stat_of_not_sensorDriven hd)]
  exact hframe a id (.inl hd)

/-! ### Transfers that succeed, one after another -/

/-- `t` is `s` after `k` transfers, whose calls were `calls`: only the register space, the environment's place and the calls
differ. -/
def Reached (s : State) (k : Nat) (calls : List BusCall) (t : State) : Prop :=
  ∃ mem, t = ((s.withMem mem).withEnv (s.env.after k)).withBus (s.bus ++ calls)

section reached
variable {s u t : State} {j k : Nat} {calls more : List BusCall}

theorem Reached.cfg (h : Reached s k calls t) : t.cfg = s.cfg := by obtain ⟨_, rfl⟩ := h; rfl
theorem Reached.power (h : Reached s k calls t) : t.power = s.power := by obtain ⟨_, rfl⟩ := h; rfl
theorem Reached.env (h : Reached s k calls t) : t.env = s.env.after k := by obtain ⟨_, rfl⟩ := h; rfl
theorem Reached.bus (h : Reached s k calls t) : t.bus = s.bus ++ calls := by obtain ⟨_, rfl⟩ := h; rfl

theorem Reached.trans (h : Reached s j calls u) (h' : Reached u k more t) : Reached s (j + k) (calls ++ more) t := by
  obtain ⟨_, rfl⟩ := h
  obtain ⟨mem, rfl⟩ := h'
  refine ⟨mem, ?_⟩
  rw [Env.after_add, ← List.append_assoc]
  rfl

/-- Where a command has come to, the next of the transfers that succeed is answered without an error. -/
theorem Reached.answer (h : Reached s j calls u) (hs : s.env.succeeds k) (hj : j < k := by decide) :
    u.env.answer.error = none := by
  rw [h.env]
  exact hs j hj

/-- Registers that both of two runs of transfers leave. -/
theorem Reached.frame (h : Reached s j calls u) {A B C : Nat → Prop} (hsu : SameBytesBut s u j A)
    (hut : SameBytesBut u t k B) (hA : ∀ a, A a → C a) (hB : ∀ a, B a → C a) : SameBytesBut s t (j + k) C := by
  intro a ha hquiet
  have hj : isSensorDriven s.cfg.rm a = false ∨ s.env.noFrames j := hquiet.imp_right fun h => (Env.noFrames_add h).1
  have hk : isSensorDriven u.cfg.rm a = false ∨ u.env.noFrames k := by
    rw [h.cfg, h.env]
    exact hquiet.imp_right fun h => (Env.noFrames_add h).2
  exact (hut a (fun h => ha (hB a h)) hk).trans (hsu a (fun h => ha (hA a h)) hj)

end reached

section read
variable {n : Nat} {op : Byte} {a : RegBase n} {b : Vector Byte n} {s t : State}

theorem memRead_succeeds (op : Byte) (a : RegBase n) (h : s.env.answer.error = none) : ∃ b t, memRead op a s = .ok b t := by
  obtain ⟨b, -, e⟩ := memRead_ok op a s h
  exact ⟨b, _, e⟩

/-- The bytes a read that succeeds returns, and the state after it. -/
theorem memRead_eq_ok (h : memRead op a s = .ok b t) :
    (∀ k (hk : k < n), b[k] = readByte s.env.answer (beforeTransfer s) a.val k) ∧
      t = record (readCall s a.val n b.toList) (beforeTransfer s) := by
  rcases memRead_cases op a s with ⟨b', -, hb, e⟩ | ⟨_, -, e⟩ <;> rw [e] at h <;> cases h
  exact ⟨hb, rfl⟩

theorem memRead_reached (h : memRead op a s = .ok b t) : Reached s 1 [readCall s a.val n b.toList] t :=
  ⟨_, (memRead_eq_ok h).2⟩

theorem memRead_mem (h : memRead op a s = .ok b t) : t.mem = frameEvents s.cfg.rm s.env.answer.frames s.mem := by
  rw [(memRead_eq_ok h).2]
  rfl

/-- A read stores to no register (R42, R50). -/
theorem memRead_frame (h : memRead op a s = .ok b t) : SameBytesBut s t 1 fun _ => False := by
  intro x _ hx
  rw [memRead_mem h]
  exact frameEvents_sameBytes hx

/-- An awake sensor returns what it presents (R52, R53, R55). -/
theorem memRead_presented (h : memRead op a s = .ok b t) (hp : s.power = .awake) {k : Nat} (hk : k < n) :
    b[k] = presented s.cfg.rm t.mem (a.val + k) := by
  rw [(memRead_eq_ok h).1 k hk, memRead_mem h]
  exact readByte_awake (s := beforeTransfer s) hp

/-- Transfers that are all reads. -/
structure ReadsTo (s : State) (k : Nat) (calls : List BusCall) (t : State) : Prop where
  reached : Reached s k calls t
  frame : SameBytesBut s t k fun _ => False

variable {s₀ : State} {k : Nat} {calls : List BusCall}

theorem memRead_readsTo (h : memRead op a s = .ok b t) : ReadsTo s 1 [readCall s a.val n b.toList] t :=
  ⟨memRead_reached h, memRead_frame h⟩

theorem ReadsTo.read (q : ReadsTo s₀ k calls s) (h : memRead op a s = .ok b t) :
    ReadsTo s₀ (k + 1) (calls ++ [readCall s₀ a.val n b.toList]) t := by
  have hr := memRead_readsTo h
  refine ⟨?_, q.reached.frame q.frame hr.frame (fun _ => id) fun _ => id⟩
  have := q.reached.trans hr.reached
  rwa [readCall, q.reached.cfg] at this

/-- After reads alone an awake sensor returns a stored register's byte as it was before them (R52). -/
theorem ReadsTo.held (q : ReadsTo s₀ k calls s) (h : memRead op a s = .ok b t) (hp : s₀.power = .awake)
    (hap : s₀.cfg.rm.registersApart) {j : Nat} (hj : j < n) (hst : isStored s₀.cfg.rm (a.val + j) = true) :
    b[j] = s₀.mem.byteAt (a.val + j) := by
  rw [memRead_presented h (q.reached.power.trans hp) hj, q.reached.cfg]
  exact presented_stored (q.read h).frame hap hst

end read

section write
variable {n : Nat} {op : Byte} {a : RegBase n} {v : Vector Byte n} {s t : State}

theorem memWrite_succeeds (op : Byte) (a : RegBase n) (v : Vector Byte n) (h : s.env.answer.error = none) :
    ∃ t, memWrite op a v s = .ok () t :=
  ⟨_, memWrite_ok op a v s h⟩

theorem memWrite_eq_ok (h : memWrite op a v s = .ok () t) : t = record (writeCall s a.val n v.toList)
    (sensorTakes false s.env.answer a.val (cellsFrom a.val v.toList) (beforeTransfer s)) := by
  rcases memWrite_cases op a v s with ⟨-, e⟩ | ⟨_, -, e⟩ <;> rw [e] at h <;> cases h
  rfl

/-- A write to another register than PCTL changes the register space alone, at a sensor in any power state. -/
theorem sensorTakes_eq_withMem {f : Bool} {ans : BusAnswer} {x : Nat} {cells : List Host.Cell}
    (hx : x ≠ s.cfg.rm.pctl.val) : ∃ mem, sensorTakes f ans x cells s = s.withMem mem := by
  unfold sensorTakes
  rw [if_neg hx]
  split <;> exact ⟨_, rfl⟩

theorem memWrite_reached (h : memWrite op a v s = .ok () t) (hne : a.val ≠ s.cfg.rm.pctl.val) :
    Reached s 1 [writeCall s a.val n v.toList] t := by
  obtain ⟨mem, e⟩ := sensorTakes_eq_withMem (s := beforeTransfer s) (f := false) (ans := s.env.answer)
    (cells := cellsFrom a.val v.toList) hne
  exact ⟨mem, (memWrite_eq_ok h).trans (congrArg (record _) e)⟩

/-- The named registers of class C other than PCTL, by place in `RegMap.spans` (R51). -/
abbrev ConfigSpan (i : Fin 13) : Prop := i = 2 ∨ i = 3 ∨ i = 6 ∨ i = 7 ∨ i = 8 ∨ i = 9

/-- The registers of a named register of `n` bytes. -/
theorem inSpan_iff {m : RegMap} {i : Fin 13} {x n b : Nat} (hi : m.spans.get i = (x, n)) :
    inSpan m b i ↔ x ≤ b ∧ b < x + n := by
  rw [inSpan, hi]

theorem inSpan_add {m : RegMap} {i : Fin 13} {x n k : Nat} (hi : m.spans.get i = (x, n)) (hk : k < n) :
    inSpan m (x + k) i :=
  (inSpan_iff hi).2 ⟨by omega, by omega⟩

theorem isStored_of_span {m : RegMap} {i : Fin 13} {b : Nat} (hc : ConfigSpan i) (hb : inSpan m b i) :
    isStored m b = true :=
  (isStored_iff m b).2 ⟨i, hb, .inr hc⟩

/-- No register is in two named registers, read as a refusal. -/
theorem not_inSpan {m : RegMap} (hap : m.registersApart) {b : Nat} {i j : Fin 13} (hi : inSpan m b i) (hij : i ≠ j) :
    ¬ inSpan m b j :=
  fun hj => hij (inSpan_unique hap hi hj)

section config
variable {i : Fin 13} (hap : s.cfg.rm.registersApart) (hi : s.cfg.rm.spans.get i = (a.val, n)) (hc : ConfigSpan i)
include hap hi hc

theorem config_ne_pctl (hn : 0 < n) : a.val ≠ s.cfg.rm.pctl.val :=
  ne_pctl_of_span hap ((inSpan_iff hi).2 ⟨le_rfl, by omega⟩) (by rintro rfl; revert hc; decide)

/-- A write of a configuration register at an awake sensor: its bytes are held, and no other register is stored to (R52). -/
theorem memWrite_config (hn : 0 < n) (h : memWrite op a v s = .ok () t) (hp : s.power = .awake) :
    (∀ k (hk : k < n), t.mem.byteAt (a.val + k) = v[k]) ∧ SameBytesBut s t 1 (inSpan s.cfg.rm · i) := by
  have hmem := byteAt_write_stored (c := writeCall s a.val n v.toList) (v := v)
    (fun k hk => isStored_of_span hc (inSpan_add hi hk)) (config_ne_pctl hap hi hc hn) hp
  rw [← memWrite_eq_ok h] at hmem
  refine ⟨fun k hk => ?_, fun b hb hq => ?_⟩
  · rw [hmem, dif_pos ⟨by omega, by omega⟩]
    simp
  · rw [hmem, dif_neg (mt (inSpan_iff hi).2 hb)]
    exact frameEvents_sameBytes hq

/-- A write of one that fails: each of its bytes is the new one or the old one, and no other register is stored to (R44). -/
theorem memWrite_config_failed (hn : 0 < n) {e : BusError} (he : s.env.answer.error = some e) (hp : s.power = .awake) :
    ∃ t, memWrite op a v s = .stop (.transfer op a.val .write e) t ∧
      (∀ k (hk : k < n), t.mem.byteAt (a.val + k) = v[k] ∨ t.mem.byteAt (a.val + k) = s.mem.byteAt (a.val + k)) ∧
      SameBytesBut s t 1 (inSpan s.cfg.rm · i) := by
  have hst : ∀ k, k < n → isStored s.cfg.rm (a.val + k) = true := fun k hk =>
    isStored_of_span hc (inSpan_add hi hk)
  have hmem := byteAt_write_stored_failed (c := ⟨s.cfg.devAddr, .write, a.val, n, v.toList, some e⟩) (v := v) hst
    (config_ne_pctl hap hi hc hn) hp
  refine ⟨_, memWrite_error op a v s he, fun k hk => ?_, fun b hb hq => ?_⟩
  · rcases hmem (a.val + k) with h | ⟨_, h⟩
    · exact .inr (h.trans (byteAt_frameEvents (not_sensorDriven_of_stored hap (hst k hk))))
    · exact .inl (by rw [h]; simp)
  · rcases hmem b with h | ⟨hrange, _⟩
    · exact h.trans (frameEvents_sameBytes hq)
    · exact absurd ((inSpan_iff hi).2 hrange) hb

end config

end write

/-! ### Read-modify-write -/

section rmw
variable {op : Byte} {a : RegBase 1} {p : Fin 8} {x : Bool} {s t : State}

theorem rmw_succeeds (op : Byte) (a : RegBase 1) (p : Fin 8) (x : Bool) (hs : s.env.succeeds 2) :
    ∃ t, rmw op a p x s = .ok () t := by
  obtain ⟨old, u, hr⟩ := memRead_succeeds op a (hs 0 (by decide))
  obtain ⟨t, hw⟩ := memWrite_succeeds op a #v[setBit old[0] p x] ((memRead_reached hr).answer hs)
  exact ⟨t, (andThen_of_ok hr).trans hw⟩

/-- A read-modify-write that succeeds read a byte and wrote it back with one bit replaced (R178). -/
theorem rmw_eq_ok (h : rmw op a p x s = .ok () t) :
    ∃ old u, memRead op a s = .ok old u ∧ memWrite op a #v[setBit old[0] p x] u = .ok () t :=
  andThen_eq_ok h

/-- What a read-modify-write of a configuration register leaves: the two calls, and at an awake sensor the register's byte
with one bit replaced and every other register as it was (R52, R178). -/
theorem rmw_config {i : Fin 13} (hap : s.cfg.rm.registersApart) (hi : s.cfg.rm.spans.get i = (a.val, 1))
    (hc : ConfigSpan i) (h : rmw op a p x s = .ok () t) : ∃ old : Byte,
    Reached s 2 [readCall s a.val 1 [old], writeCall s a.val 1 [setBit old p x]] t ∧
    (s.power = .awake → old = s.mem.byteAt a.val ∧ t.mem.byteAt a.val = setBit old p x ∧
      SameBytesBut s t 2 (· = a.val)) := by
  obtain ⟨old, u, hr, hw⟩ := rmw_eq_ok h
  have hu := memRead_reached hr
  refine ⟨old[0], ?_, fun hp => ?_⟩
  · have := hu.trans (memWrite_reached hw (by rw [hu.cfg]; exact config_ne_pctl hap hi hc Nat.one_pos))
    rwa [writeCall, hu.cfg, toList_one] at this
  · have hst : isStored s.cfg.rm (a.val + 0) = true := isStored_of_span hc (inSpan_add hi Nat.one_pos)
    rw [← hu.cfg] at hap hi
    obtain ⟨hbyte, hframe⟩ := memWrite_config hap hi hc Nat.one_pos hw (hu.power.trans hp)
    refine ⟨(memRead_presented hr hp Nat.one_pos).trans ?_, hbyte 0 Nat.one_pos, ?_⟩
    · exact presented_stored (memRead_frame hr) (hu.cfg ▸ hap) hst
    · refine hu.frame (memRead_frame hr) hframe (fun _ => False.elim) fun b hb => ?_
      have := (inSpan_iff hi).1 hb
      omega

end rmw

end Sys2Proof.Machine

namespace Sys2Proof.Machine

open Sys2Proof.Claims

/-! ### Bits, pairs and grids as the statements write them -/

theorem getLsbD_setBit (v : Byte) (p q : Fin 8) (x : Bool) :
    (setBit v p x).getLsbD q.val = if q = p then x else v.getLsbD q.val := by
  rw [← getBit_eq, getBit_setBit, getBit_eq]

theorem bitReplaced_setBit (v : Byte) (p : Fin 8) (x : Bool) : BitReplaced v (setBit v p x) p x :=
  fun q => getLsbD_setBit v p q x

theorem decodeFrameRate_eq (m : RegMap) (v : Byte) :
    decodeFrameRate m v = if v.getLsbD m.fpsBit.val = m.fpsLowVal then .low else .high := by
  rw [decodeFrameRate, getBit_eq]

theorem frameRateBit_eq (m : RegMap) (f : FrameRate) :
    frameRateBit m f = if f = .low then m.fpsLowVal else !m.fpsLowVal := by
  cases f <;> rfl

theorem decodePixelFlags_getElem (b : FlagBytes) (r c : Fin 8) : (decodePixelFlags b)[r][c] = b[r].getLsbD c.val := by
  have hdiv : (8 * r.val + c.val) / 8 = r.val := by omega
  have hmod : (8 * r.val + c.val) % 8 = c.val := by omega
  have hbit := getBit_eq b[r] c
  simp only [getBit, Fin.getElem_fin] at hbit
  simp only [decodePixelFlags, Fin.getElem_fin, gridOf_getElem, hdiv, hmod, hbit]

/-- The low 12 bits of a pair, from its two bytes (R100). -/
theorem field_twelve {p : Profile} (hp : width p = 12) (b : Pair) : field b p = b[0].toNat + 256 * (b[1].toNat % 16) := by
  have := b[0].isLt
  simp only [field, raw16_toNat, hp]
  omega

/-- The PIXEL value of a pair (R101, R103). -/
theorem decodeTemperature_pixel (b : Pair) : decodeTemperature b .pixel = pixelDegrees b[0] b[1] := by
  rw [decodeTemperature, fieldValue_pixel, lsb, mul_one_div, pixelDegrees, field_twelve rfl]
  refine congrArg (fun n : Int => (n : Rat) / 4) ?_
  push_cast
  split <;> split <;> omega

/-- The HYST value of a pair (R102, R103). -/
theorem decodeTemperature_hyst (b : Pair) : decodeTemperature b .hyst = hystDegrees b[0] b[1] := by
  rw [decodeTemperature, fieldValue_hyst, lsb, mul_one_div, hystDegrees, field_twelve rfl]
  rfl

/-- What an awake sensor presents at STAT, bit by bit (R53, R55). -/
theorem getLsbD_presented_stat (m : RegMap) (mem : Memory) (j : Fin 8) :
    (presented m mem m.stat.val).getLsbD j.val =
      if j = m.intfBit then (mem.byteAt m.stat.val).getLsbD j.val || !(mem.byteAt m.intc.val).getLsbD m.intenBit.val
      else (mem.byteAt m.stat.val).getLsbD j.val := by
  simp only [presented, getBit_eq, true_and]
  split
  · simp only [getLsbD_setBit, *, Bool.not_false, Bool.or_true]
  · simp [*]

/-- While interrupts are enabled STAT is presented as held. -/
theorem presented_enabled {m : RegMap} {mem : Memory} (h : (mem.byteAt m.intc.val).getLsbD m.intenBit.val = true)
    (a : Nat) : presented m mem a = mem.byteAt a := by
  simp [presented, getBit_eq, h]

/-! ### Commands of one read -/

/-- A command that reads `n` registers from `a` and decodes them, when the read succeeds. -/
theorem exec_read {i : Instr} {n : Nat} {op : Byte} {a : RegBase n} {f : Cfg → Vector Byte n → Value} {s : State}
    (hexec : exec i s = .next (conclude ((memRead op a (start s)).andThen fun b u => .ok (f u.cfg b) u)))
    (h : s.env.answer.error = none) :
    ∃ (t : State) (b : Vector Byte n), exec i s = .next t ∧
      t = afterTransfers s 1 t.mem [readCall s a.val n b.toList] (okReply (f s.cfg b)) ∧
      (s.power = .awake → ∀ k (hk : k < n), b[k] = presented s.cfg.rm t.mem (a.val + k)) ∧
      SameBytesBut s t 1 fun _ => False := by
  obtain ⟨b, u, hr⟩ := memRead_succeeds (s := start s) op a h
  obtain ⟨⟨_, rfl⟩, hframe⟩ := memRead_readsTo hr
  exact ⟨_, b, hexec.trans (next_deliver (andThen_of_ok hr)), rfl, fun hp k hk => memRead_presented hr hp hk, hframe⟩

/-- Settles O46: each is one read, of a stored register that an awake sensor presents as held. -/
theorem configurationReadsDecodeOneBit : Obligations.ConfigurationReadsDecodeOneBit := by
  intro s hap h
  constructor
  · obtain ⟨t, b, he, ht, hb, hframe⟩ := exec_read (i := .rdFr) (a := s.cfg.rm.fpsc)
      (f := fun cf b => .rate (decodeFrameRate cf.rm b[0])) rfl h
    rw [toList_one, decodeFrameRate_eq] at ht
    exact ⟨t, b[0], he, ht, fun hp => (hb hp 0 Nat.one_pos).trans (presented_stored hframe hap (by simp)), hframe⟩
  · obtain ⟨t, b, he, ht, hb, hframe⟩ := exec_read (i := .rdMa) (a := s.cfg.rm.ave)
      (f := fun cf b => .bool (getBit b[0] cf.rm.maBit)) rfl h
    rw [toList_one, getBit_eq] at ht
    exact ⟨t, b[0], he, ht, fun hp => (hb hp 0 Nat.one_pos).trans (presented_stored hframe hap (by simp)), hframe⟩

/-- Settles O55: each is one read; the flag table lies apart from STAT, and OVF is not INTF, the one bit an awake
sensor forces. -/
theorem flagReadsReportTheHeldFlags : Obligations.FlagReadsReportTheHeldFlags := by
  intro s hap hbits h
  constructor
  · obtain ⟨t, b, he, ht, hb, hframe⟩ := exec_read (i := .rdPxint) (a := s.cfg.rm.pxfBase)
      (f := fun _ b => .flags (decodePixelFlags b)) rfl h
    refine ⟨t, b, _, he, ht, decodePixelFlags_getElem b, fun hp k => ?_, hframe⟩
    have hspan : inSpan s.cfg.rm (s.cfg.rm.pxfBase.val + k.val) 11 := by
      simp [inSpan_pxf, within]
    have hne : s.cfg.rm.pxfBase.val + k.val ≠ s.cfg.rm.stat.val := fun e =>
      not_inSpan hap hspan (j := 4) (by decide) ((inSpan_stat _ _).2 e)
    exact (hb hp k.val k.isLt).trans (presented_of_ne hne)
  · obtain ⟨t, b, he, ht, hb, hframe⟩ := exec_read (i := .rdOvf) (a := s.cfg.rm.stat)
      (f := fun cf b => .bool (getBit b[0] cf.rm.ovfBit)) rfl h
    rw [toList_one, getBit_eq] at ht
    refine ⟨t, b[0], he, ht, fun hp => ?_, hframe⟩
    rw [hb hp 0 Nat.one_pos, Nat.add_zero, getLsbD_presented_stat, if_neg hbits.symm]

/-- Settles O54: what an awake sensor presents at STAT, bit by bit, INTC being left by the frame events. -/
theorem statPresentsInterruptWhileDisabled : Obligations.StatPresentsInterruptWhileDisabled := by
  intro s b u op hap hp h
  have hintc : u.mem.byteAt s.cfg.rm.intc.val = s.mem.byteAt s.cfg.rm.intc.val :=
    memRead_frame h _ id (.inl (not_sensorDriven_of_stored hap (by simp)))
  have hstat : b[0] = presented s.cfg.rm u.mem s.cfg.rm.stat.val := memRead_presented h hp Nat.one_pos
  constructor
  · rw [hstat, getLsbD_presented_stat, if_pos rfl, hintc]
  · intro j hj
    rw [hstat, getLsbD_presented_stat, if_neg hj]

/-- Settles O53: two reads; INTC, as first read, says whether STAT's flag is forced in the second. -/
theorem rdIntIsInterruptOrDisabled : Obligations.RdIntIsInterruptOrDisabled := by
  intro s hs
  obtain ⟨ctl, u, hctl⟩ := memRead_succeeds (s := start s) 0x50 s.cfg.rm.intc (hs 0 (by decide))
  have q1 := memRead_readsTo hctl
  obtain ⟨v, w, hv⟩ := memRead_succeeds 0x50 u.cfg.rm.stat (q1.reached.answer hs)
  have q2 := q1.read hv
  have hexec : exec .rdInt s = .next (deliver _ w) := next_deliver ((andThen_of_ok hctl).trans (andThen_of_ok hv))
  have hcfg : u.cfg = s.cfg := q1.reached.cfg
  rw [hcfg] at hv q2
  refine ⟨_, ctl[0], v[0], hexec, ?_, fun hp hap => ?_, q2.frame⟩
  · obtain ⟨_, rfl⟩ := q2.reached
    simp only [interruptFlag, getBit_eq, toList_one]
    rfl
  · have hheld : ctl[0] = s.mem.byteAt s.cfg.rm.intc.val :=
      (memRead_presented hctl hp Nat.one_pos).trans (presented_stored q1.frame hap (by simp))
    refine ⟨hheld, fun hen => ?_⟩
    have hw : w.mem.byteAt s.cfg.rm.intc.val = s.mem.byteAt s.cfg.rm.intc.val :=
      q2.frame _ id (.inl (not_sensorDriven_of_stored hap (by simp)))
    have hstat := memRead_presented hv (q1.reached.power.trans hp) Nat.one_pos
    rw [hcfg] at hstat
    exact hstat.trans (presented_enabled (by rw [hw, ← hheld]; exact hen) _)

end Sys2Proof.Machine

namespace Sys2Proof.Machine

open Sys2Proof.Claims

/-- Settles O49: four reads in a row, none of which stores to a register. -/
theorem rdIcfgDecodesFourRegions : Obligations.RdIcfgDecodesFourRegions := by
  intro s hap hs
  obtain ⟨ctl, u1, h1⟩ := memRead_succeeds (s := start s) 0x44 s.cfg.rm.intc (hs 0 (by decide))
  have q1 := memRead_readsTo h1
  obtain ⟨u, u2, h2⟩ := memRead_succeeds 0x44 u1.cfg.rm.inth (q1.reached.answer hs)
  have q2 := q1.read h2
  obtain ⟨l, u3, h3⟩ := memRead_succeeds 0x44 u2.cfg.rm.intl (q2.reached.answer hs)
  have q3 := q2.read h3
  obtain ⟨h, u4, h4⟩ := memRead_succeeds 0x44 u3.cfg.rm.ihys (q3.reached.answer hs)
  have q4 := q3.read h4
  have hexec : exec .rdIcfg s = .next (deliver _ u4) :=
    next_deliver ((andThen_of_ok h1).trans ((andThen_of_ok h2).trans ((andThen_of_ok h3).trans (andThen_of_ok h4))))
  have c1 : u1.cfg = s.cfg := q1.reached.cfg
  have c2 : u2.cfg = s.cfg := q2.reached.cfg
  have c3 : u3.cfg = s.cfg := q3.reached.cfg
  rw [c1] at h2
  rw [c2] at h3
  rw [c3] at h4
  rw [c1, c2, c3] at q4
  refine ⟨_, ctl[0], u[0], u[1], l[0], l[1], h[0], h[1], hexec, ?_, fun hp => ?_, q4.frame⟩
  · obtain ⟨_, rfl⟩ := q4.reached
    simp only [getBit_eq, decodeTemperature_pixel, decodeTemperature_hyst, toList_one, toList_two]
    rfl
  · exact ⟨(memRead_presented h1 hp (by decide)).trans (presented_stored q1.frame hap (by simp)),
      q1.held h2 hp hap (by decide) (isStored_inth _ (by decide)),
      q1.held h2 hp hap (by decide) (isStored_inth _ (by decide)),
      q2.held h3 hp hap (by decide) (isStored_intl _ (by decide)),
      q2.held h3 hp hap (by decide) (isStored_intl _ (by decide)),
      q3.held h4 hp hap (by decide) (isStored_ihys _ (by decide)),
      q3.held h4 hp hap (by decide) (isStored_ihys _ (by decide))⟩

/-! ### What the environment may draw -/

/-- The answer of a sensor that is asleep or in an unknown state to a read that succeeds: these bytes (R56). -/
def drawAnswer (bytes : List Byte) : BusAnswer := ⟨[], none, bytes, [], []⟩

/-- A sensor not known to be awake returns whatever the environment draws (R56). -/
theorem memRead_draws {n : Nat} (op : Byte) (a : RegBase n) {s : State} (b : Vector Byte n) (hp : s.power ≠ .awake) :
    ∃ t, memRead op a (s.withEnv ⟨[drawAnswer b.toList], 0⟩) = .ok b t := by
  obtain ⟨b', hb, e⟩ := memRead_ok op a (s.withEnv ⟨[drawAnswer b.toList], 0⟩) rfl
  have heq : b' = b := Vector.ext fun k hk => by
    rw [hb k hk, readByte, beforeTransfer_power, State.withEnv_power, if_neg hp]
    simp [Env.answer, drawAnswer, hk]
  exact ⟨_, heq ▸ e⟩

/-- Settles O45: the environment draws those bytes for the one read. -/
theorem sleepingSensorMayReturnAnyByte : Obligations.SleepingSensorMayReturnAnyByte := by
  refine ⟨fun n op a s b hp => ?_, fun s v hp => ⟨?_, ?_⟩⟩
  · obtain ⟨t, h⟩ := memRead_draws op a b hp
    have ht := memRead_reached h
    exact ⟨_, t, h, ht.bus, ht.power⟩
  · obtain ⟨t, h⟩ := memRead_draws (s := start s) 0x40 s.cfg.rm.fpsc #v[v] hp
    exact ⟨_, _, next_deliver (andThen_of_ok h), (memRead_reached h).bus⟩
  · obtain ⟨t, h⟩ := memRead_draws (s := start s) 0x52 s.cfg.rm.stat #v[v] hp
    exact ⟨_, _, next_deliver (andThen_of_ok h), (memRead_reached h).bus⟩

/-- A frame event that names every register: the sensor-driven ones take the bytes of `v` (R57). -/
def frameTo (v : Fin 256 → Byte) : List RegValue := (List.finRange 256).map fun a => (a, v a)

theorem byteAt_change_map (l : List (Fin 256)) (v : Fin 256 → Byte) (mem : Memory) (a : Fin 256) :
    (mem.change (l.map fun x => (x, v x))).byteAt a.val = if a ∈ l then v a else mem.byteAt a.val := by
  induction l generalizing mem with
  | nil => simp
  | cons x l ih =>
    have hstep : mem.change ((x :: l).map fun x => (x, v x)) = (mem.write x.val (v x)).change (l.map fun x => (x, v x)) :=
      rfl
    rw [hstep, ih, Memory.byteAt_write]
    by_cases hx : a = x
    · simp [hx]
    · simp [hx, Fin.val_inj]

theorem byteAt_frameTo (m : RegMap) (v : Fin 256 → Byte) (mem : Memory) (a : Fin 256) :
    (frameEvents m (frameTo v) mem).byteAt a.val = if isSensorDriven m a.val then v a else mem.byteAt a.val := by
  rw [frameEvents, frameTo, List.filter_map, byteAt_change_map]
  simp

/-- Bytes for every register, which at the pixel table are `v`. -/
def pixelBytes (m : RegMap) (v : Vector Byte 128) (a : Fin 256) : Byte := v.toList.getD (a.val - m.pixBase.val) 0

/-- The answer to a transfer that succeeds after the frame event that leaves the sensor-driven registers at `v`. -/
def frameAnswer (v : Fin 256 → Byte) : BusAnswer := ⟨frameTo v, none, [], [], []⟩

/-- An awake sensor returns whatever pixel table a frame event has made (R48, R53, R57). -/
theorem memRead_pixels (op : Byte) {s : State} (v : Vector Byte 128) (hap : s.cfg.rm.registersApart)
    (hp : s.power = .awake) (he : s.env.answer = frameAnswer (pixelBytes s.cfg.rm v)) :
    ∃ t, memRead op s.cfg.rm.pixBase s = .ok v t := by
  obtain ⟨b, t, h⟩ := memRead_succeeds op s.cfg.rm.pixBase (show s.env.answer.error = none by rw [he]; rfl)
  have hb : b = v := Vector.ext fun k hk => by
    have hspan : inSpan s.cfg.rm (s.cfg.rm.pixBase.val + k) 12 := by simp [inSpan_pix, within, hk]
    have hne : s.cfg.rm.pixBase.val + k ≠ s.cfg.rm.stat.val := fun e =>
      not_inSpan hap hspan (j := 4) (by decide) ((inSpan_stat _ _).2 e)
    have hdriven : isSensorDriven s.cfg.rm (s.cfg.rm.pixBase.val + k) = true :=
      (isSensorDriven_iff _ _).2 ⟨12, hspan, by decide⟩
    have hlt : s.cfg.rm.pixBase.val + k < 256 := by omega
    have hbyte := byteAt_frameTo s.cfg.rm (pixelBytes s.cfg.rm v) s.mem ⟨_, hlt⟩
    rw [if_pos hdriven] at hbyte
    calc b[k] = t.mem.byteAt (s.cfg.rm.pixBase.val + k) := (memRead_presented h hp hk).trans (presented_of_ne hne)
      _ = (frameEvents s.cfg.rm (frameTo (pixelBytes s.cfg.rm v)) s.mem).byteAt (s.cfg.rm.pixBase.val + k) := by
        rw [memRead_mem h, he]; rfl
      _ = pixelBytes s.cfg.rm v ⟨_, hlt⟩ := hbyte
      _ = v[k] := by simp [pixelBytes, hk]
  exact ⟨t, hb ▸ h⟩

/-- IMAGE at such an answer, with the gate passed. -/
theorem exec_image_pixels {s : State} (v : Vector Byte 128) (hap : s.cfg.rm.registersApart) (hp : s.power = .awake)
    (hg : gatePasses s) (he : s.env.answer = frameAnswer (pixelBytes s.cfg.rm v)) :
    ∃ t, exec .image s = .next t ∧ t.bus = [readCall s s.cfg.rm.pixBase.val 128 v.toList] := by
  obtain ⟨t, h⟩ := memRead_pixels (s := (start s).withGate (gateAfter s)) 0x30 v hap hp he
  have hgate : gateCheck (start s) = .ok () ((start s).withGate (gateAfter s)) := gateCheck_passes hg
  exact ⟨_, next_deliver ((andThen_of_ok hgate).trans (andThen_of_ok h)), (memRead_reached h).bus⟩

/-- Settles O44: such a frame event, before the read of the pixel table and as a step of its own. -/
theorem imageMayReturnAnyBytes : Obligations.ImageMayReturnAnyBytes := by
  refine ⟨fun s v hap hp hg => ?_, fun s v => ⟨frameTo v, _, step_frame rfl, byteAt_frameTo s.cfg.rm v s.mem, rfl⟩⟩
  obtain ⟨t, h, hbus⟩ := exec_image_pixels (s := s.withEnv ⟨[frameAnswer (pixelBytes s.cfg.rm v)], 0⟩) v hap hp hg rfl
  exact ⟨_, t, h, hbus⟩

end Sys2Proof.Machine

namespace Sys2Proof.Machine

open Sys2Proof.Claims

/-! ### Commands of one read-modify-write -/

/-- Settles O47: each is one read-modify-write, DIS_INT's after the gate. -/
theorem singleBitWritesPreserveTheRest : Obligations.SingleBitWritesPreserveTheRest := by
  intro f x s hap hs
  refine ⟨?_, ?_, fun hg => ?_⟩
  · obtain ⟨u, h⟩ := rmw_succeeds (s := start s) 0x41 s.cfg.rm.fpsc s.cfg.rm.fpsBit (frameRateBit s.cfg.rm f) hs
    obtain ⟨old, ⟨_, rfl⟩, hawake⟩ := rmw_config (s := start s) (i := 2) hap rfl (by decide) h
    exact ⟨_, old, _, next_deliver (andThen_of_ok h), frameRateBit_eq _ f ▸ bitReplaced_setBit _ _ _, rfl, hawake⟩
  · obtain ⟨u, h⟩ := rmw_succeeds (s := start s) 0x43 s.cfg.rm.ave s.cfg.rm.maBit x hs
    obtain ⟨old, ⟨_, rfl⟩, hawake⟩ := rmw_config (s := start s) (i := 6) hap rfl (by decide) h
    exact ⟨_, old, _, next_deliver (andThen_of_ok h), bitReplaced_setBit _ _ _, rfl, hawake⟩
  · have hgate : gateCheck (start s) = .ok () ((start s).withGate (gateAfter s)) := gateCheck_passes hg
    obtain ⟨u, h⟩ := rmw_succeeds (s := (start s).withGate (gateAfter s)) 0x46 s.cfg.rm.intc s.cfg.rm.intenBit false hs
    obtain ⟨old, ⟨_, rfl⟩, hawake⟩ := rmw_config (s := (start s).withGate _) (i := 3) hap rfl (by decide) h
    exact ⟨_, old, _, next_deliver ((andThen_of_ok hgate).trans (andThen_of_ok h)), bitReplaced_setBit _ _ _, rfl, hawake⟩

/-- WR_FR that ends OK at an awake sensor leaves the sensor awake, and FPSC's bit at the rate (R52, R171). -/
theorem wrFr_ok {f : FrameRate} {s t : State} (hap : s.cfg.rm.registersApart) (hp : s.power = .awake)
    (h : exec (.wrFr f) s = .next t) (hok : t.lastStatus = .ok) :
    t.cfg = s.cfg ∧ t.power = .awake ∧
      getBit (t.mem.byteAt s.cfg.rm.fpsc.val) s.cfg.rm.fpsBit = frameRateBit s.cfg.rm f := by
  cases h
  obtain ⟨v, u, hr⟩ := ok_of_lastStatus hok
  rw [hr, conclude_ok]
  obtain ⟨-, hw⟩ := nothing_eq_ok hr
  obtain ⟨old, hu, hawake⟩ := rmw_config (s := start s) (i := 2) hap rfl (by decide) hw
  obtain ⟨-, hbyte, -⟩ := hawake hp
  exact ⟨hu.cfg, hu.power.trans hp, by rw [deliver_mem]; exact hbyte ▸ getBit_setBit_same ..⟩

/-- RD_FR that ends OK at an awake sensor answers the rate FPSC holds (R52, R170). -/
theorem rdFr_ok {s t : State} (hap : s.cfg.rm.registersApart) (hp : s.power = .awake)
    (h : exec .rdFr s = .next t) (hok : t.lastStatus = .ok) :
    t.reply = okReply (.rate (decodeFrameRate s.cfg.rm (s.mem.byteAt s.cfg.rm.fpsc.val))) := by
  cases h
  obtain ⟨v, u, hr⟩ := ok_of_lastStatus hok
  obtain ⟨b, w, hread, hv⟩ := andThen_eq_ok hr
  have hb : b[0] = s.mem.byteAt s.cfg.rm.fpsc.val :=
    (memRead_presented hread hp Nat.one_pos).trans (presented_stored (memRead_frame (s := start s) hread) hap (by simp))
  have hcfg : w.cfg = s.cfg := (memRead_reached hread).cfg
  cases hv
  rw [hr, conclude_ok, deliver_reply, hb, hcfg]

/-- Settles O48: the write leaves FPSC's bit at the rate, and the read answers the rate FPSC holds. -/
theorem frameRateReadsBackAsWritten : Obligations.FrameRateReadsBackAsWritten := by
  intro f s t u hap hp hw hr htok huok
  obtain ⟨hcfg, hpower, hbit⟩ := wrFr_ok hap hp hw htok
  rw [← hcfg] at hap hbit
  rw [rdFr_ok hap hpower hr huok, (decodeFrameRate_bit _ _ f).2 hbit]

/-! ### Commands of one write of a reset pattern -/

/-- A command that writes one byte to a register other than PCTL, when the write succeeds. -/
theorem exec_write {i : Instr} {op : Byte} {a : RegBase 1} {v : Byte} {s : State}
    (hexec : exec i s = .next (conclude (nothing (memWrite op a #v[v] (start s)))))
    (h : s.env.answer.error = none) (hap : s.cfg.rm.registersApart) (ha : isReset s.cfg.rm a.val = true) :
    ∃ t, exec i s = .next t ∧ t = afterTransfers s 1 t.mem [writeCall s a.val 1 [v]] (okReply .nothing) ∧
      (s.power = .awake →
        t.mem = takeByte s.cfg.rm s.env.answer (frameEvents s.cfg.rm s.env.answer.frames s.mem) (a.val, v)) := by
  have hne := reset_ne_pctl hap ha
  obtain ⟨u, hw⟩ := memWrite_succeeds (s := start s) op a #v[v] h
  refine ⟨_, hexec.trans (next_deliver (andThen_of_ok hw)), ?_, fun hp => ?_⟩
  · obtain ⟨_, rfl⟩ := memWrite_reached hw hne
    rfl
  · rw [deliver_mem, memWrite_eq_ok hw]
    exact mem_write_reset (s := start s) hne hp

/-- Clearing a flag of STAT after frame events: that flag is 0, and every other bit and register is as before but for them
(R54, R57). -/
theorem clearStatBit_isolated {s t : State} {p : Fin 8}
    (h : t.mem = clearStatBit s.cfg.rm p (frameEvents s.cfg.rm s.env.answer.frames s.mem)) :
    (t.mem.byteAt s.cfg.rm.stat.val).getLsbD p.val = false ∧
      (s.env.noFrames 1 → BitReplaced (s.mem.byteAt s.cfg.rm.stat.val) (t.mem.byteAt s.cfg.rm.stat.val) p false) ∧
      SameBytesBut s t 1 (· = s.cfg.rm.stat.val) := by
  refine ⟨?_, fun hq => ?_, fun a ha hq => ?_⟩
  · rw [h, byteAt_clearStatBit, if_pos rfl, getLsbD_setBit, if_pos rfl]
  · rw [h, byteAt_clearStatBit, if_pos rfl, frameEvents_sameBytes (.inr hq)]
    exact bitReplaced_setBit _ _ _
  · rw [h, byteAt_clearStatBit, if_neg ha, frameEvents_sameBytes hq]

/-- Settles O56: each pattern clears its own bit of STAT. -/
theorem singleFlagResetsAreIsolated : Obligations.SingleFlagResetsAreIsolated := by
  intro s hwf h
  have ⟨hap, _, _, _, hpat, _⟩ := hwf
  obtain ⟨hint, hovf, -⟩ := patterns_isReset hpat
  constructor
  · obtain ⟨t, he, ht, hmem⟩ := exec_write (i := .rstInt) (s := s) rfl h hap hint
    exact ⟨t, he, ht, fun hp => clearStatBit_isolated ((hmem hp).trans (takeByte_rstInt hwf ..))⟩
  · obtain ⟨t, he, ht, hmem⟩ := exec_write (i := .rstOvf) (s := s) rfl h hap hovf
    exact ⟨t, he, ht, fun hp => clearStatBit_isolated ((hmem hp).trans (takeByte_rstOvf hwf ..))⟩

/-- The RST_FLAGS pattern, register by register (R54). -/
theorem byteAt_clearAll (m : RegMap) (mem : Memory) (a : Nat) : (clearAll m mem).byteAt a =
    if within a m.pxfBase.val 8 then 0
    else if a = m.stat.val then setBit (setBit (mem.byteAt a) m.intfBit false) m.ovfBit false else mem.byteAt a := by
  simp only [clearAll, byteAt_clearPixelFlags, byteAt_clearStatBit, if_true]
  split
  · rfl
  · split
    · simp [*]
    · rfl

/-- Clearing every flag after frame events: INTF, OVF and the per-pixel flags are 0, and every other bit and register is as
before but for them (R54, R57). -/
theorem clearAll_isolated {s t : State} (hap : s.cfg.rm.registersApart)
    (h : t.mem = clearAll s.cfg.rm (frameEvents s.cfg.rm s.env.answer.frames s.mem)) :
    (t.mem.byteAt s.cfg.rm.stat.val).getLsbD s.cfg.rm.intfBit.val = false ∧
      (t.mem.byteAt s.cfg.rm.stat.val).getLsbD s.cfg.rm.ovfBit.val = false ∧
      (∀ k : Fin 8, t.mem.byteAt (s.cfg.rm.pxfBase.val + k.val) = 0) ∧
      (s.env.noFrames 1 → ∀ j : Fin 8, j ≠ s.cfg.rm.intfBit → j ≠ s.cfg.rm.ovfBit →
        (t.mem.byteAt s.cfg.rm.stat.val).getLsbD j.val = (s.mem.byteAt s.cfg.rm.stat.val).getLsbD j.val) ∧
      SameBytesBut s t 1 fun a => a = s.cfg.rm.stat.val ∨ within a s.cfg.rm.pxfBase.val 8 = true := by
  have hstat : ¬ within s.cfg.rm.stat.val s.cfg.rm.pxfBase.val 8 = true := by
    rw [← inSpan_pxf]
    exact not_inSpan hap ((inSpan_stat _ _).2 rfl) (by decide)
  have hbits (j : Fin 8) : (t.mem.byteAt s.cfg.rm.stat.val).getLsbD j.val =
      if j = s.cfg.rm.ovfBit then false else if j = s.cfg.rm.intfBit then false
      else ((frameEvents s.cfg.rm s.env.answer.frames s.mem).byteAt s.cfg.rm.stat.val).getLsbD j.val := by
    rw [h, byteAt_clearAll, if_neg hstat, if_pos rfl, getLsbD_setBit, getLsbD_setBit]
  refine ⟨by rw [hbits]; simp, by rw [hbits]; simp, fun k => ?_, fun hq j hi ho => ?_, fun a ha hq => ?_⟩
  · rw [h, byteAt_clearAll, if_pos (by simp [within])]
  · rw [hbits, if_neg ho, if_neg hi, frameEvents_sameBytes (.inr hq)]
  · obtain ⟨hne, hpxf⟩ := not_or.1 ha
    rw [h, byteAt_clearAll, if_neg hpxf, if_neg hne, frameEvents_sameBytes hq]

/-- Settles O57: the pattern clears both bits of STAT and the flag table. -/
theorem rstFlagsClearsAllThree : Obligations.RstFlagsClearsAllThree := by
  intro s hwf h
  have ⟨hap, _, _, _, hpat, _⟩ := hwf
  obtain ⟨-, -, hall⟩ := patterns_isReset hpat
  obtain ⟨t, he, ht, hmem⟩ := exec_write (i := .rstFlags) (s := s) rfl h hap hall
  exact ⟨t, he, ht, fun hp => clearAll_isolated hap ((hmem hp).trans (takeByte_rstAll hwf ..))⟩

/-! ### A power write that fails -/

theorem next_raise {r : Res Value} {e : Stop} {u : State} (h : r = .stop e u) :
    (.next (conclude r) : Host.Outcome State Fault Refusal) = .next (raise e u) := by
  rw [h, conclude_stop]

theorem andThen_of_stop {α β : Type} {r : Res α} {k : α → State → Res β} {e : Stop} {u : State} (h : r = .stop e u) :
    r.andThen k = .stop e u := by
  rw [h, andThen_stop]

/-- What a PCTL write of `v` that fails leaves: the power state unknown, the old or the new byte in PCTL, and every other
register and the block's bits as they were (R44, R56). -/
def PowerWriteFailed (s : State) (v : Byte) (t : State) : Prop :=
  t.mode = s.mode ∧ t.power = .unknown ∧ t.gateViolation = s.gateViolation ∧ t.refused = s.refused ∧
    (t.mem.byteAt s.cfg.rm.pctl.val = s.mem.byteAt s.cfg.rm.pctl.val ∨ t.mem.byteAt s.cfg.rm.pctl.val = v) ∧
    SameBytesBut s t 1 (· = s.cfg.rm.pctl.val)

theorem setPower_error (op : Byte) (x : Mode) {s : State} {e : BusError} (hap : s.cfg.rm.registersApart)
    (he : s.env.answer.error = some e) :
    ∃ t, setPower op x s = .stop (.transfer op s.cfg.rm.pctl.val .write e) t ∧ t.scopeActive = s.scopeActive ∧
      PowerWriteFailed s (powerCode s.cfg.rm x) t := by
  have hbyte := byteAt_write_pctl_failed (v := powerCode s.cfg.rm x) (s := s)
    (c := ⟨s.cfg.devAddr, .write, s.cfg.rm.pctl.val, 1, [powerCode s.cfg.rm x], some e⟩)
  have hpctl := not_sensorDriven_of_stored hap (isStored_pctl s.cfg.rm)
  refine ⟨_, andThen_of_stop (memWrite_error _ _ _ _ he), by simp, by simp, by simp [sensorTakes, powerAfter], by simp,
    by simp, ?_, fun a ha hq => ?_⟩
  · exact (hbyte _).imp (fun h => h.trans (byteAt_frameEvents hpctl)) fun h => h.2
  · rcases hbyte a with h | ⟨rfl, -⟩
    · exact h.trans (frameEvents_sameBytes hq)
    · exact absurd rfl ha

/-- Settles O39: all four come to the one power write, which ends them. -/
theorem failedPowerWriteKeepsMode : Obligations.FailedPowerWriteKeepsMode := by
  intro i s e hi he hap
  suffices h : ∃ u v, exec i s = .next (raise (.transfer (encode i).op s.cfg.rm.pctl.val .write e) u) ∧
      u.scopeActive = (s.scopeActive && decide (i ≠ .scopeExit)) ∧ PowerWriteFailed s v u ∧
      v = if i = .wake ∨ i = .scopeEnter then s.cfg.rm.pctlAwake else s.cfg.rm.pctlSleep by
    obtain ⟨u, v, hexec, hscope, ⟨hmode, hpower, hgate, hrefused, hbyte, hframe⟩, rfl⟩ := h
    exact ⟨_, hexec, hmode, hpower, hscope, hgate, by simpa [Stop.isRefusal] using hrefused, rfl, hbyte, hframe⟩
  rcases hi with rfl | rfl | ⟨rfl, hs⟩ | ⟨rfl, hs⟩
  · obtain ⟨u, hu, hscope, h⟩ := setPower_error 0x20 .awake (s := start s) hap he
    exact ⟨u, _, next_raise (andThen_of_stop hu), by simpa using hscope, h, rfl⟩
  · obtain ⟨u, hu, hscope, h⟩ := setPower_error 0x21 .asleep (s := start s) hap he
    exact ⟨u, _, next_raise (andThen_of_stop hu), by simpa using hscope, h, rfl⟩
  · obtain ⟨u, hu, hscope, h⟩ := setPower_error 0x23 .awake (s := start s) hap he
    exact ⟨u, _, next_raise ((if_neg (ne_true_of_eq_false hs)).trans (andThen_of_stop (andThen_of_stop hu))),
      by simpa using hscope, h, rfl⟩
  · obtain ⟨u, hu, hscope, h⟩ := setPower_error 0x24 .asleep (s := (start s).withScope false) hap he
    exact ⟨u, _, next_raise ((if_pos hs).trans (andThen_of_stop hu)), by simpa using hscope, h, rfl⟩

end Sys2Proof.Machine

namespace Sys2Proof.Machine

open Sys2Proof.Claims

/-! ### WR_ICFG: up to the write of IHYS, and from there -/

theorem getLsbD_controlByte {m : RegMap} (h : m.controlBitsDiffer) (old : Byte) (enabled absolute : Bool) (j : Fin 8) :
    (controlByte m old enabled absolute).getLsbD j.val =
      if j = m.intenBit then enabled else if j = m.intmodBit then absolute else old.getLsbD j.val := by
  rw [controlByte, getLsbD_setBit, getLsbD_setBit]
  by_cases hj : j = m.intenBit
  · rw [if_neg (hj ▸ h), if_pos hj, if_pos hj]
  · rw [if_neg hj, if_neg hj]

theorem encodeOrRaise_valid {t : TempIn} (p : Profile) (f : Option LimitField) (s : State) (h : t ≠ .nan) :
    ∃ b, encodeTemperature t p = some b ∧ encodeOrRaise t p f s = .ok b s :=
  (encodeOrRaise_cases t p f s).resolve_right fun hnan => h hnan.1

section writes
variable {s₀ s t : State} {k : Nat} {i : Fin 13}

/-- A configuration register that none of the transfers from `s` stored to holds what it held. -/
theorem config_kept {A : Nat → Prop} {b : Nat} (hf : SameBytesBut s t k A) (hcfg : s.cfg = s₀.cfg)
    (hap : s₀.cfg.rm.registersApart) (hc : ConfigSpan i) (hb : inSpan s₀.cfg.rm b i) (hA : ¬ A b) :
    t.mem.byteAt b = s.mem.byteAt b := by
  refine hf b hA (.inl ?_)
  rw [hcfg]
  exact not_sensorDriven_of_stored hap (isStored_of_span hc hb)

/-- The next transfer is a write of a configuration register. -/
theorem Reached.write {calls : List BusCall} {n : Nat} {op : Byte} {a : RegBase n} {v : Vector Byte n}
    (q : Reached s₀ k calls s) (hap : s₀.cfg.rm.registersApart) (hi : s₀.cfg.rm.spans.get i = (a.val, n))
    (hc : ConfigSpan i) (hn : 0 < n) (h : memWrite op a v s = .ok () t) :
    Reached s₀ (k + 1) (calls ++ [writeCall s₀ a.val n v.toList]) t ∧ (s₀.power = .awake →
      (∀ j (hj : j < n), t.mem.byteAt (a.val + j) = v[j]) ∧ SameBytesBut s t 1 (inSpan s₀.cfg.rm · i)) := by
  have hcfg := q.cfg
  rw [← hcfg] at hap hi
  constructor
  · have := q.trans (memWrite_reached h (config_ne_pctl hap hi hc hn))
    rwa [writeCall, hcfg] at this
  · intro hp
    rw [← hcfg]
    exact memWrite_config hap hi hc hn h (q.power.trans hp)

end writes

/-- What is left of WR_ICFG once INTC is read and INTH and INTL are written (R175). -/
def wrIcfgRest (cf : ICfgIn) (eh : Pair) (old : Byte) (s : State) : Res Value :=
  (memWrite 0x45 s.cfg.rm.ihys eh s).andThen fun _ u =>
    nothing (memWrite 0x45 u.cfg.rm.intc #v[controlByte u.cfg.rm old cf.enabled cf.absolute] u)

/-- The state then: three calls, and at an awake sensor INTC's byte read and the two limits held. -/
structure LimitsWritten (s : State) (eu el : Pair) (old : Byte) (t : State) : Prop where
  reached : Reached s 3 [readCall s s.cfg.rm.intc.val 1 [old], writeCall s s.cfg.rm.inth.val 2 eu.toList,
    writeCall s s.cfg.rm.intl.val 2 el.toList] t
  held : s.power = .awake → old = s.mem.byteAt s.cfg.rm.intc.val ∧
    (∀ k (hk : k < 2), t.mem.byteAt (s.cfg.rm.inth.val + k) = eu[k]) ∧
    (∀ k (hk : k < 2), t.mem.byteAt (s.cfg.rm.intl.val + k) = el[k]) ∧
    SameBytesBut s t 3 fun a => inSpan s.cfg.rm a 7 ∨ inSpan s.cfg.rm a 8

section limits
variable {s : State}

theorem limitsWritten {op : Byte} {ctl : Vector Byte 1} {eu el : Pair} {u v t : State} (hap : s.cfg.rm.registersApart)
    (h1 : memRead op s.cfg.rm.intc s = .ok ctl u) (h2 : memWrite op s.cfg.rm.inth eu u = .ok () v)
    (h3 : memWrite op s.cfg.rm.intl el v = .ok () t) : LimitsWritten s eu el ctl[0] t := by
  have q1 := memRead_reached h1
  obtain ⟨q2, hinth⟩ := q1.write (i := 7) hap rfl (by decide) (by decide) h2
  obtain ⟨q3, hintl⟩ := q2.write (i := 8) hap rfl (by decide) (by decide) h3
  rw [toList_one] at q3
  refine ⟨q3, fun hp => ?_⟩
  obtain ⟨binth, finth⟩ := hinth hp
  obtain ⟨bintl, fintl⟩ := hintl hp
  refine ⟨(memRead_presented h1 hp (by decide)).trans (presented_stored (memRead_frame h1) hap (by simp)),
    fun k hk => ?_, bintl, ?_⟩
  · have hspan : inSpan s.cfg.rm (s.cfg.rm.inth.val + k) 7 := inSpan_add rfl hk
    exact (config_kept fintl q2.cfg hap (by decide) hspan (not_inSpan hap hspan (by decide))).trans (binth k hk)
  · have f2 := q1.frame (C := (inSpan s.cfg.rm · 7)) (memRead_frame h1) finth (fun _ => False.elim) fun _ => id
    exact q2.frame f2 fintl (fun _ => .inl) fun _ => .inr

/-- WR_ICFG with valid limits and the gate passed, when its first three transfers succeed. -/
theorem exec_wrIcfg_limits {cf : ICfgIn} (hap : s.cfg.rm.registersApart) (hv : validLimits cf) (hg : gatePasses s)
    (hs : s.env.succeeds 3) : ∃ eu el eh old u, encodeTemperature cf.upper .pixel = some eu ∧
      encodeTemperature cf.lower .pixel = some el ∧ encodeTemperature cf.hysteresis .hyst = some eh ∧
      exec (.wrIcfg cf) s = .next (conclude (wrIcfgRest cf eh old u)) ∧
      LimitsWritten ((start s).withGate (gateAfter s)) eu el old u := by
  obtain ⟨hu, hl, hh⟩ := hv
  obtain ⟨eu, heu, ru⟩ := encodeOrRaise_valid .pixel (some .upper) (start s) hu
  obtain ⟨el, hel, rl⟩ := encodeOrRaise_valid .pixel (some .lower) (start s) hl
  obtain ⟨eh, heh, rh⟩ := encodeOrRaise_valid .hyst (some .hysteresis) (start s) hh
  have hgate : gateCheck (start s) = .ok () ((start s).withGate (gateAfter s)) := gateCheck_passes hg
  obtain ⟨ctl, u1, h1⟩ := memRead_succeeds (s := (start s).withGate (gateAfter s)) 0x45 s.cfg.rm.intc (hs 0 (by decide))
  have q1 := memRead_reached h1
  obtain ⟨u2, h2⟩ := memWrite_succeeds 0x45 s.cfg.rm.inth eu (q1.answer hs)
  obtain ⟨q2, -⟩ := q1.write (i := 7) hap rfl (by decide) (by decide) h2
  obtain ⟨u3, h3⟩ := memWrite_succeeds 0x45 s.cfg.rm.intl el (q2.answer hs)
  have c1 : u1.cfg = s.cfg := q1.cfg
  have c2 : u2.cfg = s.cfg := q2.cfg
  refine ⟨eu, el, eh, ctl[0], u3, heu, hel, heh, ?_, limitsWritten hap h1 h2 h3⟩
  simp only [exec, execWrIcfg, wrIcfgRest, perform_eq, ru, rl, rh, hgate, State.withGate_cfg, start_cfg, h1, h2, h3, c1, c2,
    andThen_ok]

end limits

/-- Settles O50: the writes of IHYS and INTC leave INTH and INTL, and that of INTC leaves IHYS. -/
theorem wrIcfgWritesLimitsThenControl : Obligations.WrIcfgWritesLimitsThenControl := by
  intro cf s hap hbits hv hg hs
  obtain ⟨eu, el, eh, old, u, heu, hel, heh, hexec, hlim⟩ := exec_wrIcfg_limits hap hv hg fun j hj => hs j (by omega)
  obtain ⟨v, h4⟩ := memWrite_succeeds 0x45 s.cfg.rm.ihys eh (hlim.reached.answer hs)
  obtain ⟨q4, hihys⟩ := hlim.reached.write (i := 9) hap rfl (by decide) (by decide) h4
  obtain ⟨t, h5⟩ := memWrite_succeeds 0x45 s.cfg.rm.intc #v[controlByte s.cfg.rm old cf.enabled cf.absolute] (q4.answer hs)
  obtain ⟨q5, hintc⟩ := q4.write (i := 3) hap rfl (by decide) (by decide) h5
  have cu : u.cfg = s.cfg := hlim.reached.cfg
  have cv : v.cfg = s.cfg := q4.cfg
  have hrest : wrIcfgRest cf eh old u = .ok .nothing t := by
    simp only [wrIcfgRest, cu, cv, h4, h5, andThen_ok, nothing_ok]
  refine ⟨_, eu, el, eh, old, _, heu, hel, heh, getLsbD_controlByte hbits old cf.enabled cf.absolute,
    hexec.trans (next_deliver hrest), ?_, fun hp => ?_⟩
  · obtain ⟨_, rfl⟩ := q5
    rfl
  · obtain ⟨hold, binth, bintl, flim⟩ := hlim.held hp
    obtain ⟨bihys, fihys⟩ := hihys hp
    obtain ⟨bintc, fintc⟩ := hintc hp
    have hkept {b : Nat} {i : Fin 13} (hb : inSpan s.cfg.rm b i) (hc : ConfigSpan i) (hne : i ≠ 3) :
        t.mem.byteAt b = v.mem.byteAt b :=
      config_kept fintc cv hap hc hb (not_inSpan hap hb hne)
    have hkept' {b : Nat} {i : Fin 13} (hb : inSpan s.cfg.rm b i) (hc : ConfigSpan i) (hne : i ≠ 3) (hne' : i ≠ 9) :
        t.mem.byteAt b = u.mem.byteAt b :=
      (hkept hb hc hne).trans (config_kept fihys cu hap hc hb (not_inSpan hap hb hne'))
    refine ⟨hold, bintc 0 (by decide), fun k => ⟨?_, ?_, ?_⟩, ?_⟩
    · exact (hkept' (inSpan_add (i := 7) rfl k.isLt) (by decide) (by decide) (by decide)).trans (binth k k.isLt)
    · exact (hkept' (inSpan_add (i := 8) rfl k.isLt) (by decide) (by decide) (by decide)).trans (bintl k k.isLt)
    · exact (hkept (inSpan_add (i := 9) rfl k.isLt) (by decide) (by decide)).trans (bihys k k.isLt)
    · simp only [← inSpan_inth, ← inSpan_intl, ← inSpan_ihys, ← inSpan_intc]
      have f4 := hlim.reached.frame flim fihys (C := fun a => inSpan s.cfg.rm a 7 ∨ inSpan s.cfg.rm a 8 ∨ inSpan s.cfg.rm a 9)
        (fun _ => Or.imp_right .inl) fun _ h => .inr (.inr h)
      exact q4.frame f4 fintc (fun _ => .inr) fun _ => .inl

/-- Settles O52: the failing write of IHYS ends the command before the write of INTC, and leaves INTH and INTL. -/
theorem wrIcfgFailingLateKeepsEarlierWrites : Obligations.WrIcfgFailingLateKeepsEarlierWrites := by
  intro cf s e hap hv hm hp hs he
  obtain ⟨eu, el, eh, old, u, heu, hel, heh, hexec, hlim⟩ := exec_wrIcfg_limits hap hv (.inl hm) hs
  obtain ⟨-, binth, bintl, flim⟩ := hlim.held hp
  have herr : u.env.answer.error = some e := by rw [hlim.reached.env]; exact he
  have cu : u.cfg = s.cfg := hlim.reached.cfg
  obtain ⟨t, h4, bihys, fihys⟩ := memWrite_config_failed (op := 0x45) (a := u.cfg.rm.ihys) (v := eh) (s := u) (i := 9)
    (by rw [cu]; exact hap) rfl (by decide) (by decide) herr (hlim.reached.power.trans hp)
  rw [cu] at fihys bihys
  have hkept {b : Nat} {i : Fin 13} (hb : inSpan s.cfg.rm b i) (hc : ConfigSpan i) (hne : i ≠ 9) :
      t.mem.byteAt b = u.mem.byteAt b :=
    config_kept fihys cu hap hc hb (not_inSpan hap hb hne)
  refine ⟨_, eu, el, eh, heu, hel, heh, hexec.trans (next_raise (andThen_of_stop h4)), by rw [cu]; rfl,
    fun k => ⟨?_, ?_, ?_⟩, ?_⟩
  · exact (hkept (inSpan_add (i := 7) rfl k.isLt) (by decide) (by decide)).trans (binth k k.isLt)
  · exact (hkept (inSpan_add (i := 8) rfl k.isLt) (by decide) (by decide)).trans (bintl k k.isLt)
  · have hspan : inSpan s.cfg.rm (s.cfg.rm.ihys.val + k.val) 9 := inSpan_add rfl k.isLt
    have hold := config_kept flim rfl hap (by decide) hspan
      (not_or.2 ⟨not_inSpan hap hspan (by decide), not_inSpan hap hspan (by decide)⟩)
    exact (bihys k k.isLt).imp_right fun h => h.trans hold
  · simp only [← inSpan_inth, ← inSpan_intl, ← inSpan_ihys]
    exact hlim.reached.frame flim fihys (fun _ => Or.imp_right .inl) fun _ h => .inr (.inr h)

end Sys2Proof.Machine

namespace Sys2Proof

/-! ### What decoding a command can come to -/

/-- What decoding `c` can come to: an assigned code gives the instruction whose command `c` is, or refuses a record of another
shape (R71 to R77, R79); a code without an operand shape is reserved (R78). -/
inductive DecodesTo (c : Command) : Except DecodeError Instr → Prop
  | instr (i : Instr) (hi : encode i = c) (ho : (operandShape c.op).isSome = true) : DecodesTo c (.ok i)
  | record (ho : (operandShape c.op).isSome = true) : DecodesTo c (.error (.operandRecord c.op))
  | reserved (ho : operandShape c.op = none) : DecodesTo c (.error (.reservedCode c.op))

/-- By the code, and at an assigned one by the record: one shape is the code's own, the eleven others are refused. -/
theorem decode_decodesTo (c : Command) : DecodesTo c (decode c) := by
  obtain ⟨op, r⟩ := c
  unfold decode
  split
  case h_39 => exact .reserved (by simp only [operandShape])
  all_goals
    subst_vars
    cases r <;> constructor <;> rfl

/-- Decoding an instruction's command gives the instruction back, with every operand (R71 to R79). -/
theorem decode_encode (i : Instr) : decode (encode i) = .ok i := by
  cases i <;> rfl

/-- A command that decodes is the one command of its instruction. -/
theorem encode_of_decode {c : Command} {i : Instr} (h : decode c = .ok i) : encode i = c := by
  have hd := decode_decodesTo c
  rw [h] at hd
  cases hd with
  | instr _ hi => exact hi

/-- The reserved codes are those without an operand shape (R78). -/
theorem decode_eq_reserved_iff (c : Command) :
    decode c = .error (.reservedCode c.op) ↔ operandShape c.op = none := by
  have hd := decode_decodesTo c
  generalize decode c = d at hd ⊢
  cases hd with
  | instr _ _ ho | record ho => simp [Option.ne_none_iff_isSome.2 ho]
  | reserved ho => simp [ho]

/-- Settles O1: the round trip of an instruction, and that of a command that decodes. -/
theorem decodeAndEncodeAgree : Obligations.DecodeAndEncodeAgree :=
  ⟨decode_encode, fun _ _ => encode_of_decode⟩

/-- Settles O2: a code is reserved when it has no operand shape, and which codes those are is read off all 256. -/
theorem reservedCodesAreExactlyTheUnassigned : Obligations.ReservedCodesAreExactlyTheUnassigned := by
  intro op r
  refine (decode_eq_reserved_iff ⟨op, r⟩).trans ?_
  dsimp only
  revert op
  decide

/-- Settles O3: the six codes are those `encode` gives the six commands. -/
theorem writtenCodesDecodeAsAssigned : Obligations.WrittenCodesDecodeAsAssigned :=
  ⟨decode_encode (.enctDev .nan), decode_encode (.enceIa true 0x01), decode_encode .scopeExit, decode_encode .devtemp,
    decode_encode (.wrMa true), decode_encode .rstFlags⟩

end Sys2Proof

namespace Sys2Proof.Machine

open Sys2Proof.Claims

/-! ### The result shape of each command -/

/-- A command's body that comes to its end comes to a result of shape `k`. -/
def Res.Yields (k : ResultShape) (r : Res Value) : Prop := r.Holds (fun v _ => shapeOf v = k) (fun _ _ => True)

section yields
variable {α : Type} {k : ResultShape}

theorem Res.yields_ok {v : Value} (h : shapeOf v = k) (s : State) : (Res.ok v s).Yields k := h

theorem Res.yields_stop (e : Stop) (s : State) : (Res.stop e s).Yields k := trivial

/-- A command's result is that of its last step. -/
theorem Res.Yields.andThen (r : Res α) {f : α → State → Res Value} (hf : ∀ a s, (f a s).Yields k) :
    (r.andThen f).Yields k := by
  cases r with
  | ok a s => exact hf a s
  | stop e s => exact yields_stop e s

theorem Res.yields_nothing (r : Res Unit) : (nothing r).Yields .nothing :=
  .andThen r fun _ => yields_ok rfl

end yields

/-- The body of every command yields the shape of the result table (R79): its last step delivers the result. -/
theorem exec_yields (i : Instr) (s : State) :
    ∃ r : Res Value, exec i s = .next (conclude r) ∧ r.Yields (resultShape i) := by
  cases i with
  | enctPix | enctDev | enctHys | rdFr | rdMa | rdPxint | rdOvf => exact ⟨_, rfl, .andThen _ fun _ _ => rfl⟩
  | image | devtemp | rdInt => exact ⟨_, rfl, .andThen _ fun _ _ => .andThen _ fun _ _ => rfl⟩
  | rdIcfg =>
    exact ⟨_, rfl, .andThen _ fun _ _ => .andThen _ fun _ _ => .andThen _ fun _ _ => .andThen _ fun _ _ => rfl⟩
  | parseFr str =>
    refine ⟨_, rfl, ?_⟩
    dsimp only
    split
    · exact Res.yields_ok rfl _
    · exact Res.yields_stop _ _
  | wake | sleep | wrFr | wrMa | rstInt | rstOvf | rstFlags => exact ⟨_, rfl, Res.yields_nothing _⟩
  | disInt => exact ⟨_, rfl, .andThen _ fun _ _ => Res.yields_nothing _⟩
  | wrIcfg =>
    exact ⟨_, rfl, .andThen _ fun _ _ => .andThen _ fun _ _ => .andThen _ fun _ _ => .andThen _ fun _ _ =>
      .andThen _ fun _ _ => .andThen _ fun _ _ => .andThen _ fun _ _ => .andThen _ fun _ _ => Res.yields_nothing _⟩
  | scopeEnter =>
    refine ⟨_, rfl, ?_⟩
    dsimp only
    split
    · exact Res.yields_stop _ _
    · exact Res.yields_nothing _
  | scopeExit =>
    refine ⟨_, rfl, ?_⟩
    dsimp only
    split
    · exact Res.yields_nothing _
    · exact Res.yields_stop _ _
  | _ => exact ⟨_, rfl, rfl⟩

/-- What a body yields is the result of its answer. -/
theorem Res.Yields.result {k : ResultShape} {r : Res Value} (h : r.Yields k) {rep : Reply} {v : Value}
    (hrep : (conclude r).reply = some rep) (hv : rep.result = some v) : shapeOf v = k := by
  cases r with
  | ok w s =>
    cases hrep
    cases hv
    exact h
  | stop e s =>
    cases hrep
    cases hv

/-- Settles O10: the answer is the conclusion of a body that yields the command's shape. -/
theorem everyCommandAnswersWithItsShape : Obligations.EveryCommandAnswersWithItsShape := by
  intro i s
  obtain ⟨r, he, hr⟩ := exec_yields i s
  obtain ⟨rep, hrep, -, hiff⟩ := conclude_reply r
  exact ⟨_, rep, he, hrep, hiff.trans Option.isSome_iff_exists, fun _ => hr.result hrep⟩

end Sys2Proof.Machine

namespace Sys2Proof.Machine

open Sys2Proof.Claims

/-! ### Sample reads behind the gate -/

/-- The DEVICE value of a pair (R101, R103). -/
theorem decodeTemperature_device (b : Pair) : decodeTemperature b .device = deviceDegrees b[0] b[1] := by
  have hfield : field b .device = b[0].toNat + 256 * (b[1].toNat % 8) := by
    have := b[0].isLt
    simp only [field, raw16_toNat, width]
    omega
  rw [decodeTemperature, fieldValue_device, lsb, mul_one_div, deviceDegrees, hfield]
  refine congrArg (fun n : Int => (n : Rat) / 16) ?_
  push_cast
  split <;> split <;> omega

/-- Of every named register but STAT, the fifth, an awake sensor presents what it holds (R51 to R53). -/
theorem presented_of_span {m : RegMap} (hap : m.registersApart) {mem : Memory} {a : Nat} {i : Fin 13} (hi : inSpan m a i)
    (hi4 : i ≠ 4) : presented m mem a = mem.byteAt a :=
  presented_of_ne fun e => not_inSpan hap hi hi4 ((inSpan_stat m a).2 e)

/-- A command that passes the gate, reads `n` registers from `reg`'s address and decodes them, when the read succeeds. -/
theorem exec_gatedRead {i : Instr} {n : Nat} {op : Byte} (reg : RegMap → RegBase n) (f : Vector Byte n → Value)
    {s : State} (hexec : exec i s = .next (conclude ((gateCheck (start s)).andThen fun _ u =>
      (memRead op (reg u.cfg.rm) u).andThen fun b w => .ok (f b) w)))
    (hg : gatePasses s) (h : s.env.answer.error = none) :
    ∃ (t : State) (b : Vector Byte n), exec i s = .next t ∧
      t = (afterTransfers s 1 t.mem [readCall s (reg s.cfg.rm).val n b.toList] (okReply (f b))).withGate (gateAfter s) ∧
      (s.power = .awake → ∀ k (hk : k < n), b[k] = presented s.cfg.rm t.mem ((reg s.cfg.rm).val + k)) ∧
      SameBytesBut s t 1 fun _ => False := by
  have hgate : gateCheck (start s) = .ok () ((start s).withGate (gateAfter s)) := gateCheck_passes hg
  obtain ⟨b, u, hr⟩ := memRead_succeeds (s := (start s).withGate (gateAfter s)) op (reg s.cfg.rm) h
  obtain ⟨⟨_, rfl⟩, hframe⟩ := memRead_readsTo hr
  exact ⟨_, b, hexec.trans (next_deliver ((andThen_of_ok hgate).trans (andThen_of_ok hr))), rfl,
    fun hp k hk => memRead_presented hr hp hk, hframe⟩

/-- Settles O43: one read behind the gate, of a pair that lies apart from STAT. -/
theorem devtempDecodesTheDevicePair : Obligations.DevtempDecodesTheDevicePair := by
  intro s hg h
  obtain ⟨t, b, he, ht, hb, hframe⟩ := exec_gatedRead (i := .devtemp) (·.tth)
    (fun b => .temp (decodeTemperature b .device)) rfl hg h
  rw [toList_two, decodeTemperature_device] at ht
  refine ⟨t, b[0], b[1], he, ht, fun hp hap => ?_, hframe⟩
  have hheld (k : Nat) (hk : k < 2) : b[k] = t.mem.byteAt (s.cfg.rm.tth.val + k) :=
    (hb hp k hk).trans (presented_of_span hap (i := 10) (inSpan_add rfl hk) (by decide))
  exact ⟨hheld 0 (by decide), hheld 1 (by decide)⟩

end Sys2Proof.Machine

namespace Sys2Proof.Machine

open Sys2Proof.Claims

/-! ### The temperature codec: rounding, clamping, packing -/

/-- At a tie the even integer is taken (R11). -/
theorem roundHalfEven_tie {q : Rat} (h : |q - roundHalfEven q| = 1 / 2) : roundHalfEven q % 2 = 0 := by
  have hfloor : (q.floor : Rat) ≤ q := Rat.floor_le q
  have hlt : q < q.floor + 1 := by exact_mod_cast Rat.lt_floor_add_one q
  unfold roundHalfEven at h ⊢
  dsimp only at h ⊢
  split at h
  · rw [abs_of_nonneg (by linarith)] at h
    linarith
  · split at h
    · push_cast at h
      rw [abs_of_nonpos (by linarith)] at h
      linarith
    · simp only [*, if_false]
      split <;> omega

theorem roundHalfEven_nearestEven (q : Rat) : NearestEven q (roundHalfEven q) :=
  ⟨roundHalfEven_near q, roundHalfEven_tie⟩

/-- Rounding does not leave an interval with integer ends. -/
theorem roundHalfEven_mem {q : Rat} {a b : Int} (ha : (a : Rat) ≤ q) (hb : q ≤ b) :
    a ≤ roundHalfEven q ∧ roundHalfEven q ≤ b := by
  obtain ⟨hl, hu⟩ := abs_le.1 (roundHalfEven_near q)
  have hlow : (a : Rat) < roundHalfEven q + 1 := by linarith
  have hupp : (roundHalfEven q : Rat) < b + 1 := by linarith
  exact ⟨Int.lt_add_one_iff.1 (by exact_mod_cast hlow), Int.lt_add_one_iff.1 (by exact_mod_cast hupp)⟩

theorem clamp_eq_max_min {n a b : Int} (h : a ≤ b) : clamp n a b = max a (min n b) := by
  unfold clamp
  split
  · omega
  · split <;> omega

theorem clamp_of_mem {n a b : Int} (h : a ≤ n ∧ n ≤ b) : clamp n a b = n := by
  rw [clamp_eq_max_min (h.1.trans h.2), min_eq_left h.2, max_eq_right h.1]

/-- The packed pair is the w-bit pattern of the integer (R110). -/
theorem pairNat_packField (n : Int) (p : Profile) : (pairNat (packField n p) : Int) = n % 2 ^ width p := by
  rw [pairNat, ← raw16_toNat, raw16_packField, Int.toNat_of_nonneg (Int.emod_nonneg _ (by positivity))]

theorem encodeTemperature_finite (q : Rat) (p : Profile) :
    encodeTemperature (.finite q) p = some (packField (clamp (roundHalfEven (q / lsb p)) (lo p) (hi p)) p) := rfl

/-- What is decoded after encoding: the rounded and clamped number of LSBs (R108, R109). -/
theorem decodeTemperature_packField_clamp (n : Int) (p : Profile) :
    decodeTemperature (packField (clamp n (lo p) (hi p)) p) p = clamp n (lo p) (hi p) * lsb p := by
  obtain ⟨hlo, hhi⟩ := clamp_range (n := n) (lo_le_hi p)
  rw [decodeTemperature, fieldValue_packField _ p hlo hhi]

/-- Settles O26: in range nothing is clamped, and a nearest integer is within a half. -/
theorem decodeAfterEncodeIsWithinHalfLsb : Obligations.DecodeAfterEncodeIsWithinHalfLsb := by
  intro p q hlo hhi
  have hpos := lsb_pos p
  have hdec := decodeTemperature_packField_clamp (roundHalfEven (q / lsb p)) p
  have hclamp : clamp (roundHalfEven (q / lsb p)) (lo p) (hi p) = roundHalfEven (q / lsb p) :=
    clamp_of_mem (roundHalfEven_mem ((le_div_iff₀ hpos).2 hlo) ((div_le_iff₀ hpos).2 hhi))
  refine ⟨_, encodeTemperature_finite q p, ?_, ?_⟩ <;> rw [hdec, hclamp]
  · have hq : q = q / lsb p * lsb p := (div_mul_cancel₀ q hpos.ne').symm
    calc |roundHalfEven (q / lsb p) * lsb p - q|
        = |q / lsb p - roundHalfEven (q / lsb p)| * lsb p := by
          rw [abs_sub_comm, ← abs_of_pos hpos, ← abs_mul, abs_of_pos hpos, sub_mul, ← hq]
      _ ≤ 1 / 2 * lsb p := mul_le_mul_of_nonneg_right (roundHalfEven_near _) hpos.le
      _ = lsb p / 2 := by ring
  · rintro ⟨n, rfl⟩
    rw [mul_div_cancel_right₀ _ hpos.ne', roundHalfEven_int]

/-- Settles O28: the signed profiles' least integer is negative, so a negative integer stays negative clamped. -/
theorem negativeTemperaturesStayNegative : Obligations.NegativeTemperaturesStayNegative := by
  intro p q hp hneg
  have hdec := decodeTemperature_packField_clamp (roundHalfEven (q / lsb p)) p
  refine ⟨_, encodeTemperature_finite q p, hdec, hdec ▸ mul_neg_of_neg_of_pos ?_ (lsb_pos p)⟩
  have hlo : lo p < 0 := by rcases hp with rfl | rfl <;> decide
  have hclamp : clamp (roundHalfEven (q / lsb p)) (lo p) (hi p) < 0 := by
    rw [clamp_eq_max_min (lo_le_hi p)]
    omega
  exact_mod_cast hclamp

/-- The field's integer has the field as its w-bit pattern, signed or not (R101, R102). -/
theorem fieldValue_emod (b : Pair) (p : Profile) : fieldValue b p % 2 ^ width p = field b p := by
  have h := field_lt b p
  cases p <;> simp only [width] at h ⊢
  · rw [fieldValue_pixel]
    split <;> omega
  · rw [fieldValue_device]
    split <;> omega
  · rw [fieldValue_hyst]
    omega

/-- The field from its two bytes: the low byte, and of the high byte the low w - 8 bits (R100). -/
theorem field_eq (b : Pair) (p : Profile) : field b p = b[0].toNat + 256 * (b[1].toNat % 2 ^ (width p - 8)) := by
  have := b[0].isLt
  cases p <;> simp only [field, raw16_toNat, width] <;> omega

/-- A decoded temperature encodes to the pattern of its own field: it is a whole number of LSBs in range. -/
theorem encodeTemperature_decodeTemperature (b : Pair) (p : Profile) :
    encodeTemperature (.finite (decodeTemperature b p)) p =
      some #v[BitVec.ofNat 8 (field b p), BitVec.ofNat 8 (field b p / 256)] := by
  rw [encodeTemperature_finite, decodeTemperature, mul_div_cancel_right₀ _ (lsb_pos p).ne', roundHalfEven_int,
    clamp_of_mem (fieldValue_range b p), packField, fieldValue_emod, Int.toNat_natCast]

/-- A byte's low k bits, as a remainder and as a mask. -/
theorem ofNat_emod_two_pow (h : Byte) (k : Nat) :
    BitVec.ofNat 8 (h.toNat % 2 ^ k) = h &&& BitVec.ofNat 8 (2 ^ k - 1) := by
  rw [← Nat.and_two_pow_sub_one_eq_mod, BitVec.ofNat_and, BitVec.ofNat_toNat, BitVec.setWidth_eq]

/-- Settles O27: the field's low byte is the pair's, and its high byte is the pair's with the field's bits kept. -/
theorem encodeAfterDecodeClearsUnusedBits : Obligations.EncodeAfterDecodeClearsUnusedBits := by
  intro l h p
  have hl := l.isLt
  have hfield : field #v[l, h] p = l.toNat + 256 * (h.toNat % 2 ^ (width p - 8)) := field_eq _ p
  have hlow : BitVec.ofNat 8 (field #v[l, h] p) = l :=
    BitVec.eq_of_toNat_eq (by rw [BitVec.toNat_ofNat, hfield]; omega)
  have hhigh : field #v[l, h] p / 256 = h.toNat % 2 ^ (width p - 8) := by omega
  rw [encodeTemperature_decodeTemperature, hlow, hhigh, ofNat_emod_two_pow]
  cases p <;> rfl

/-! ### Codec commands: what they answer -/

/-- A command whose body has a result at once answers it, and nothing else changes (R131). -/
theorem exec_completes {i : Instr} {s : State} {v w : Value} (hexec : exec i s = .next (conclude (.ok v (start s))))
    (hv : v = w) : exec i s = .next (answers s (okReply w)) := by
  rw [hexec, hv]
  rfl

/-- A command whose body raises an error at once answers that; an error, unlike a refusal, sets no mark (R24, R131). -/
theorem exec_raises {i : Instr} {s : State} {e : Stop} (hexec : exec i s = .next (conclude (.stop e (start s))))
    (he : e.isRefusal = false) : exec i s = .next (answers s (endReply e.status e.info)) := by
  rw [hexec, conclude_stop, raise, he, Bool.or_false]
  rfl

/-- Settles O19. -/
theorem dectPixIsSignedQuarterDegrees : Obligations.DectPixIsSignedQuarterDegrees := fun l h _ =>
  ⟨decode_encode (.dectPix _), exec_completes rfl (congrArg _ (decodeTemperature_pixel #v[l, h]))⟩

/-- Settles O20. -/
theorem dectDevIsSignedSixteenthDegrees : Obligations.DectDevIsSignedSixteenthDegrees := fun l h _ =>
  ⟨decode_encode (.dectDev _), exec_completes rfl (congrArg _ (decodeTemperature_device #v[l, h]))⟩

/-- Settles O21. -/
theorem dectHysIsUnsignedQuarterDegrees : Obligations.DectHysIsUnsignedQuarterDegrees := fun l h _ =>
  ⟨decode_encode (.dectHys _), exec_completes rfl (congrArg _ (decodeTemperature_hyst #v[l, h]))⟩

/-- Settles O29: the table's byte r is row r. -/
theorem decpfUnpacksRowByByte : Obligations.DecpfUnpacksRowByByte := fun b _ =>
  ⟨decode_encode (.decpf b), _, decodePixelFlags_getElem b, exec_completes rfl rfl⟩

/-- Settles O30: the model's `getbit` reads the bit. -/
theorem enumDecodersReadTheirBit : Obligations.EnumDecodersReadTheirBit := by
  intro v s
  refine ⟨decode_encode (.deceFr v), decode_encode (.deceMa v), decode_encode (.deceDm v), decode_encode (.deceIe v),
    decode_encode (.deceIa v), ?_, ?_, ?_, ?_, ?_⟩
  · exact exec_completes rfl (congrArg _ (decodeFrameRate_eq s.cfg.rm v))
  · exact exec_completes rfl (congrArg _ (getBit_eq v s.cfg.rm.maBit))
  · exact exec_completes rfl (congrArg _ (getBit_eq v s.cfg.rm.intenBit))
  · exact exec_completes rfl (congrArg _ (getBit_eq v s.cfg.rm.intmodBit))
  · exact exec_completes rfl rfl

theorem powerCode_eq (m : RegMap) (x : Mode) : powerCode m x = if x = .awake then m.pctlAwake else m.pctlSleep := by
  cases x <;> rfl

/-- Settles O31: `setbit` replaces the bit. -/
theorem enumEncodersReplaceTheirBit : Obligations.EnumEncodersReplaceTheirBit := by
  intro f x d old s
  refine ⟨decode_encode (.enceFr f old), decode_encode (.enceMa x old), decode_encode (.enceDm d),
    decode_encode (.enceIe x old), decode_encode (.enceIa x old), ⟨_, bitReplaced_setBit old _ _, ?_⟩,
    ⟨_, bitReplaced_setBit old _ x, ?_⟩, ⟨_, bitReplaced_setBit old _ x, ?_⟩, ⟨_, bitReplaced_setBit old _ x, ?_⟩, ?_⟩
  · exact exec_completes rfl (by rw [frameRateBit_eq, start_cfg])
  · exact exec_completes rfl rfl
  · exact exec_completes rfl rfl
  · exact exec_completes rfl rfl
  · exact exec_completes rfl (congrArg _ (powerCode_eq s.cfg.rm d))

theorem exec_parseFr_of_some {str : String} {x : FrameRate} (h : parseFrameRate str = some x) (s : State) :
    exec (.parseFr str) s = .next (answers s (okReply (.rate x))) :=
  exec_completes (by simp only [exec, execParseFr, perform_eq, h]) rfl

theorem exec_parseFr_of_none {str : String} (h : parseFrameRate str = none) (s : State) :
    exec (.parseFr str) s = .next (answers s (endReply .invalidEnumValue (.badEnum str))) :=
  exec_raises (e := .badEnum str) (by simp only [exec, execParseFr, perform_eq, h]) rfl

/-- Settles O32: by the string. -/
theorem parseFrAcceptsExactlyTwoStrings : Obligations.ParseFrAcceptsExactlyTwoStrings := by
  intro str s
  refine ⟨decode_encode (.parseFr str), ?_⟩
  split
  · exact exec_parseFr_of_some (by rw [parseFrameRate, if_pos ‹_›]) s
  split
  · exact exec_parseFr_of_some (by rw [parseFrameRate, if_neg ‹_›, if_pos ‹_›]) s
  · exact exec_parseFr_of_none (by rw [parseFrameRate, if_neg ‹_›, if_neg ‹_›]) s

/-! ### The three temperature encoders, over their profile -/

/-- `i` is the ENCT command of profile `p` with operand `t`: its body encodes, or raises (R111 to R113). -/
def Encodes (i : Instr) (t : TempIn) (p : Profile) : Prop :=
  ∀ s, exec i s = .next (conclude ((encodeOrRaise t p none (start s)).andThen fun b u => .ok (.pair b) u))

theorem encodes_enctPix (t : TempIn) : Encodes (.enctPix t) t .pixel := fun _ => rfl
theorem encodes_enctDev (t : TempIn) : Encodes (.enctDev t) t .device := fun _ => rfl
theorem encodes_enctHys (t : TempIn) : Encodes (.enctHys t) t .hyst := fun _ => rfl

section encodes
variable {i : Instr} {t : TempIn} {p : Profile}

theorem Encodes.exec_pair {b : Pair} (henc : Encodes i t p) (h : encodeTemperature t p = some b) (s : State) :
    exec i s = .next (answers s (okReply (.pair b))) :=
  exec_completes ((henc s).trans (by rw [encodeOrRaise, h]; rfl)) rfl

theorem Encodes.exec_nan (henc : Encodes i .nan p) (s : State) :
    exec i s = .next (answers s (endReply .valueOutOfRange (.range p none))) :=
  exec_raises (henc s) rfl

/-- Whatever the operand, the answer is one in any two states. -/
theorem Encodes.exec_pure (henc : Encodes i t p) (s1 s2 : State) :
    ∃ r, exec i s1 = .next (answers s1 (some r)) ∧ exec i s2 = .next (answers s2 (some r)) := by
  by_cases ht : t = .nan
  · subst ht
    exact ⟨_, henc.exec_nan s1, henc.exec_nan s2⟩
  · obtain ⟨b, hb, -⟩ := encodeOrRaise_valid p none s1 ht
    exact ⟨_, henc.exec_pair hb s1, henc.exec_pair hb s2⟩

/-- The encoding of a number: rounded, clamped to the profile's range, packed (R108 to R110). -/
theorem Encodes.exec_finite {q : Rat} (henc : Encodes i (.finite q) p) (s : State) :
    ∃ (n : Int) (b : Pair), NearestEven (q / lsb p) n ∧ (pairNat b : Int) = max (lo p) (min n (hi p)) % 2 ^ width p ∧
      exec i s = .next (answers s (okReply (.pair b))) := by
  refine ⟨_, _, roundHalfEven_nearestEven _, ?_, henc.exec_pair (encodeTemperature_finite q p) s⟩
  rw [pairNat_packField, clamp_eq_max_min (lo_le_hi p)]

end encodes

/-- Settles O22. -/
theorem enctPixRoundsClampsAndPacks : Obligations.EnctPixRoundsClampsAndPacks := by
  intro s
  refine ⟨fun q => ?_, (encodes_enctPix _).exec_pair rfl s, (encodes_enctPix _).exec_pair rfl s⟩
  have hq : q / lsb .pixel = q * 4 := by simp [lsb]
  exact hq ▸ (encodes_enctPix _).exec_finite s

/-- Settles O23. -/
theorem enctDevRoundsClampsAndPacks : Obligations.EnctDevRoundsClampsAndPacks := by
  intro s
  refine ⟨fun q => ?_, (encodes_enctDev _).exec_pair rfl s, (encodes_enctDev _).exec_pair rfl s⟩
  have hq : q / lsb .device = q * 16 := by simp [lsb]
  exact hq ▸ (encodes_enctDev _).exec_finite s

/-- Settles O24: the clamped integer is not negative, so it is its own pattern. -/
theorem enctHysRoundsClampsAndPacks : Obligations.EnctHysRoundsClampsAndPacks := by
  intro s
  refine ⟨fun q => ?_, (encodes_enctHys _).exec_pair rfl s, (encodes_enctHys _).exec_pair rfl s⟩
  have hq : q / lsb .hyst = q * 4 := by simp [lsb]
  obtain ⟨n, b, hn, hb, he⟩ := (encodes_enctHys (.finite q)).exec_finite s
  refine ⟨n, b, hq ▸ hn, hb.trans (Int.emod_eq_of_lt ?_ ?_), he⟩
  · exact le_max_left _ _
  · simp only [lo, hi, width]
    omega

/-- Settles O25. -/
theorem encodingNaNIsOutOfRange : Obligations.EncodingNaNIsOutOfRange := fun s =>
  ⟨(encodes_enctPix _).exec_nan s, (encodes_enctDev _).exec_nan s, (encodes_enctHys _).exec_nan s⟩

/-! ### Every codec command -/

/-- Settles O17: two states with one `Cfg` give a codec command's body the same result or error. -/
theorem codecCommandsArePure : Obligations.CodecCommandsArePure := by
  intro i s1 s2 hcode hcfg
  cases i with
  | dectPix | dectDev | dectHys | decpf => exact ⟨_, exec_completes rfl rfl, exec_completes rfl rfl⟩
  | enctPix t => exact (encodes_enctPix t).exec_pure s1 s2
  | enctDev t => exact (encodes_enctDev t).exec_pure s1 s2
  | enctHys t => exact (encodes_enctHys t).exec_pure s1 s2
  | deceFr | deceMa | deceDm | deceIe | deceIa | enceFr | enceMa | enceDm | enceIe | enceIa =>
    exact ⟨_, exec_completes rfl rfl, exec_completes rfl (by rw [start_cfg, start_cfg, hcfg])⟩
  | parseFr str =>
    cases h : parseFrameRate str with
    | some x => exact ⟨_, exec_parseFr_of_some h s1, exec_parseFr_of_some h s2⟩
    | none => exact ⟨_, exec_parseFr_of_none h s1, exec_parseFr_of_none h s2⟩
  | _ => simp [encode] at hcode

end Sys2Proof.Machine

namespace Sys2Proof.Machine

open Sys2Proof.Claims

/-! ### `mode` -/

/-- Settles O37. -/
theorem asleepReportsTheModeFlag : Obligations.AsleepReportsTheModeFlag := fun _ =>
  ⟨decode_encode .asleep, exec_completes rfl rfl⟩

section mode
variable {i : Instr} {op : Byte} {x m : Mode} {s t : State}

theorem Transfer.mode (h : Transfer i s t) : t.mode = s.mode := by cases h <;> simp

/-- Only a power command has an update of `mode` (R143, R144, R146, R147). -/
theorem Update.mode_eq (hi : ¬ SetsPower i) (h : Update i s t) : t.mode = s.mode := by
  cases h with
  | transfer h => exact h.mode
  | gate | scope => rfl
  | mode hi' => exact absurd hi' hi

/-- The power write that succeeds is followed by `mode`, and one that fails leaves it (R143, R144). -/
theorem setPower_mode : (setPower op x s).Holds (fun _ t => t.mode = x) (fun _ t => t.mode = s.mode) :=
  setPower_holds (i := .wake) (by simp [transfersOf]) (fun _ _ => rfl) (fun _ _ _ h => h.mode)

/-- The `mode` of a command that leaves it at `x` when its body comes to its end, and at `m` when it ends before. -/
theorem conclude_mode {r : Res Value} (h : r.Holds (fun _ t => t.mode = x) (fun _ t => t.mode = m)) :
    (conclude r).mode = if (conclude r).lastStatus = .ok then x else m := by
  cases r with
  | ok v t => exact h
  | stop e t => exact (show t.mode = m from h).trans (if_neg e.status_ne_ok).symm

theorem scopeEnter_mode (h : exec .scopeEnter s = .next t) :
    t.mode = if t.lastStatus = .ok then .awake else s.mode := by
  cases h
  refine conclude_mode ?_
  dsimp only
  split
  · exact rfl
  · exact Res.holds_nothing (Res.holds_andThen setPower_mode)

theorem scopeExit_mode (h : exec .scopeExit s = .next t) :
    t.mode = if t.lastStatus = .ok then .asleep else s.mode := by
  cases h
  refine conclude_mode ?_
  dsimp only
  split
  · exact Res.holds_nothing setPower_mode
  · exact rfl

theorem exec_mode_eq (hi : ¬ SetsPower i) (h : exec i s = .next t) : t.mode = s.mode := by
  obtain ⟨r, e, hr⟩ := exec_updates i s
  obtain rfl := Host.Outcome.next.inj (e.symm.trans h)
  exact conclude_of_holds (P := (·.mode = s.mode))
    (hr.mono fun _ hu => field_of_steps (f := (·.mode)) (fun _ _ => Update.mode_eq hi) hu)

end mode

/-- Settles O11: the four power commands by their bodies; no other command has an update of `mode`. -/
theorem modeFollowsTheTransitionTable : Obligations.ModeFollowsTheTransitionTable := by
  intro i s t h
  refine ⟨?_, ?_, fun hw he hs hx => exec_mode_eq (fun hi => ?_) h⟩
  · rintro (rfl | rfl)
    · cases h
      exact conclude_mode (Res.holds_nothing setPower_mode)
    · exact scopeEnter_mode h
  · rintro (rfl | rfl)
    · cases h
      exact conclude_mode (Res.holds_nothing setPower_mode)
    · exact scopeExit_mode h
  · cases i with
    | wake => exact hw rfl
    | sleep => exact hs rfl
    | scopeEnter => exact he rfl
    | scopeExit => exact hx rfl
    | _ => exact hi

/-! ### A power write that succeeds -/

/-- `t` is `s` after the PCTL write for mode `x`, and after `mode` has followed it: one call, PCTL holds the byte, and every
other register is as before, but for the frame events (R52, R57, R143, R144). -/
structure PowerWritten (s : State) (x : Mode) (t : State) : Prop where
  state : t = ((((s.withMem t.mem).withEnv (s.env.after 1)).withBus
    (s.bus ++ [writeCall s s.cfg.rm.pctl.val 1 [powerCode s.cfg.rm x]])).withMode x).withPower
      (powerAfter s.cfg.rm false (powerCode s.cfg.rm x))
  byte : t.mem.byteAt s.cfg.rm.pctl.val = powerCode s.cfg.rm x
  frame : SameBytesBut s t 1 (· = s.cfg.rm.pctl.val)

theorem setPower_ok (op : Byte) (x : Mode) {s : State} (h : s.env.answer.error = none) :
    ∃ t, setPower op x s = .ok () t ∧ PowerWritten s x t := by
  have hsensor := sensorTakes_pctl (ans := s.env.answer) (v := powerCode s.cfg.rm x) (s := beforeTransfer s)
  have hwrite := (memWrite_ok op s.cfg.rm.pctl #v[powerCode s.cfg.rm x] s h).trans
    (congrArg (fun u => Res.ok () (record (writeCall s s.cfg.rm.pctl.val 1 [powerCode s.cfg.rm x]) u)) hsensor)
  refine ⟨_, andThen_of_ok hwrite, rfl, ?_, fun a ha hq => ?_⟩
  · exact (Memory.byteAt_write ..).trans (if_pos rfl)
  · exact (Memory.byteAt_write ..).trans ((if_neg ha).trans (frameEvents_sameBytes hq))

/-- The power states the two encodings set (R56, R81). -/
theorem powerAfter_pctlAwake (m : RegMap) : powerAfter m false m.pctlAwake = .awake := by
  simp [powerAfter, decodePower]

theorem powerAfter_pctlSleep {m : RegMap} (h : m.powerCodesDiffer) : powerAfter m false m.pctlSleep = .asleep := by
  simp [powerAfter, decodePower, h.symm]

/-- Settles O33. -/
theorem wakeWritesThenSetsMode : Obligations.WakeWritesThenSetsMode := by
  intro s h
  obtain ⟨u, hu, hstate, hbyte, hframe⟩ := setPower_ok 0x20 .awake (s := start s) h
  refine ⟨_, next_deliver (andThen_of_ok hu), ?_, hbyte, hframe⟩
  rw [hstate, start_cfg, powerCode, powerAfter_pctlAwake]
  rfl

/-- Settles O34. -/
theorem sleepWritesThenSetsMode : Obligations.SleepWritesThenSetsMode := by
  intro s hcodes h
  obtain ⟨u, hu, hstate, hbyte, hframe⟩ := setPower_ok 0x21 .asleep (s := start s) h
  refine ⟨_, next_deliver (andThen_of_ok hu), ?_, hbyte, hframe⟩
  rw [hstate, start_cfg, powerCode, powerAfter_pctlSleep hcodes]
  rfl

/-- Settles O35: the bit is set after the power write. -/
theorem scopeEnterWakesAndOpens : Obligations.ScopeEnterWakesAndOpens := by
  intro s hs h
  obtain ⟨u, hu, hstate, hbyte, hframe⟩ := setPower_ok 0x23 .awake (s := start s) h
  have hbody := congrArg nothing (andThen_of_ok (k := fun _ u => .ok () (u.withScope true)) hu)
  refine ⟨_, next_deliver ((if_neg (ne_true_of_eq_false hs)).trans hbody), ?_, hbyte, hframe⟩
  rw [hstate, start_cfg, powerCode, powerAfter_pctlAwake]
  rfl

/-- Settles O36: the bit is cleared before the power write. -/
theorem scopeExitSleepsAndCloses : Obligations.ScopeExitSleepsAndCloses := by
  intro s hcodes hs h
  obtain ⟨u, hu, hstate, hbyte, hframe⟩ := setPower_ok 0x24 .asleep (s := (start s).withScope false) h
  refine ⟨_, next_deliver ((if_pos hs).trans (andThen_of_ok hu)), ?_, hbyte, hframe⟩
  rw [hstate, State.withScope_cfg, start_cfg, powerCode, powerAfter_pctlSleep hcodes]
  rfl

/-! ### IMAGE -/

theorem decodeImage_getElem (b : Vector Byte 128) (r c : Fin 8) :
    (decodeImage b)[r][c] = pixelDegrees b[16 * r.val + 2 * c.val] b[16 * r.val + 2 * c.val + 1] := by
  have hindex : 2 * (8 * r.val + c.val) = 16 * r.val + 2 * c.val := by omega
  calc (decodeImage b)[r][c]
      = decodeTemperature #v[b[2 * (8 * r.val + c.val)], b[2 * (8 * r.val + c.val) + 1]] .pixel := gridOf_getElem ..
    _ = pixelDegrees b[2 * (8 * r.val + c.val)] b[2 * (8 * r.val + c.val) + 1] := decodeTemperature_pixel _
    _ = pixelDegrees b[16 * r.val + 2 * c.val] b[16 * r.val + 2 * c.val + 1] := by simp only [hindex]

/-- Settles O42: one read behind the gate, of a table that lies apart from STAT. -/
theorem imageDecodesThePixelTable : Obligations.ImageDecodesThePixelTable := by
  intro s hg h
  obtain ⟨t, b, he, ht, hb, hframe⟩ := exec_gatedRead (i := .image) (·.pixBase) (fun b => .image (decodeImage b)) rfl hg h
  refine ⟨t, b, _, he, ht, decodeImage_getElem b, fun hp hap k => ?_, hframe⟩
  exact (hb hp k k.isLt).trans (presented_of_span hap (i := 12) (inSpan_add rfl k.isLt) (by decide))

end Sys2Proof.Machine

namespace Sys2Proof.Machine

open Sys2Proof.Claims

/-! ### The gate under ISSUE: what an Awake-only command does while Asleep -/

/-- `s`, the state of a command that runs when Awake, as the same command has it that passed the gate while Asleep under
ISSUE (R141). -/
def whileAsleep (s : State) : State := (s.withMode .asleep).withGate true

@[simp] theorem whileAsleep_cfg (s : State) : (whileAsleep s).cfg = s.cfg := rfl
@[simp] theorem whileAsleep_mem (s : State) : (whileAsleep s).mem = s.mem := rfl
@[simp] theorem whileAsleep_power (s : State) : (whileAsleep s).power = s.power := rfl
@[simp] theorem whileAsleep_env (s : State) : (whileAsleep s).env = s.env := rfl

/-- Where a command has come to, with its state changed by `f`. -/
def Res.mapState {α : Type} (f : State → State) : Res α → Res α
  | .ok a s => .ok a (f s)
  | .stop e s => .stop e (f s)

/-- A step of a command does while Asleep what it does when Awake. -/
def ModeBlind {α : Type} (k : State → Res α) : Prop := ∀ s, k (whileAsleep s) = (k s).mapState whileAsleep

theorem ModeBlind.andThen {α β : Type} {k : State → Res α} {l : α → State → Res β} (hk : ModeBlind k)
    (hl : ∀ a, ModeBlind (l a)) : ModeBlind fun s => (k s).andThen l := by
  intro s
  dsimp only
  rw [hk s]
  cases k s with
  | ok a u => exact hl a u
  | stop e u => rfl

theorem ModeBlind.nothing {k : State → Res Unit} (hk : ModeBlind k) : ModeBlind fun s => nothing (k s) :=
  hk.andThen fun _ _ => rfl

section transfers
variable {n : Nat} {op : Byte} {a : RegBase n} {v : Vector Byte n} {s : State}

theorem memRead_whileAsleep : memRead op a (whileAsleep s) = (memRead op a s).mapState whileAsleep := by
  simp only [memRead, whileAsleep_env]
  split <;> rfl

/-- The sensor takes bytes whatever the block's mode and fault bit. -/
theorem sensorTakes_whileAsleep {f : Bool} {ans : BusAnswer} {x : Nat} {cells : List Host.Cell} :
    sensorTakes f ans x cells (whileAsleep s) = whileAsleep (sensorTakes f ans x cells s) := by
  simp only [sensorTakes, whileAsleep_cfg, whileAsleep_mem, whileAsleep_power, apply_ite whileAsleep]
  rfl

theorem memWrite_whileAsleep : memWrite op a v (whileAsleep s) = (memWrite op a v s).mapState whileAsleep := by
  have hbefore : beforeTransfer (whileAsleep s) = whileAsleep (beforeTransfer s) := rfl
  simp only [memWrite, whileAsleep_env, whileAsleep_cfg, hbefore, sensorTakes_whileAsleep]
  split <;> rfl

theorem rmw_whileAsleep {a : RegBase 1} {p : Fin 8} {x : Bool} :
    rmw op a p x (whileAsleep s) = (rmw op a p x s).mapState whileAsleep :=
  ModeBlind.andThen (fun _ => memRead_whileAsleep) (fun _ _ => memWrite_whileAsleep) s

end transfers

/-- The rest of an Awake-only command, once the gate has let it on, does not look at `mode` (R141, R160, R161, R175, R176). -/
theorem exec_gated_modeBlind {i : Instr} (hi : ReachesGate i) : ∃ k : State → Res Value,
    (∀ s, exec i s = .next (conclude ((gateCheck (start s)).andThen fun _ u => k u))) ∧ ModeBlind k := by
  cases i with
  | image | devtemp => exact ⟨_, fun _ => rfl, .andThen (fun _ => memRead_whileAsleep) fun _ _ => rfl⟩
  | disInt => exact ⟨_, fun _ => rfl, .nothing fun _ => rmw_whileAsleep⟩
  | wrIcfg c =>
    obtain ⟨hu, hl, hh⟩ := hi
    obtain ⟨bu, eu⟩ := encodeOrRaise_of_ne_nan .pixel hu
    obtain ⟨bl, el⟩ := encodeOrRaise_of_ne_nan .pixel hl
    obtain ⟨bh, eh⟩ := encodeOrRaise_of_ne_nan .hyst hh
    refine ⟨_, fun s => by simp only [exec, execWrIcfg, perform_eq, eu, el, eh, andThen_ok]; rfl, ?_⟩
    exact .andThen (fun _ => memRead_whileAsleep) fun _ => .andThen (fun _ => memWrite_whileAsleep) fun _ =>
      .andThen (fun _ => memWrite_whileAsleep) fun _ => .andThen (fun _ => memWrite_whileAsleep) fun _ =>
      .nothing fun _ => memWrite_whileAsleep
  | _ => exact hi.elim

theorem conclude_mapState_whileAsleep (r : Res Value) :
    conclude (r.mapState whileAsleep) = whileAsleep (conclude r) := by
  cases r <;> rfl

/-- Settles O40: the gate makes the one difference, and the rest of the command carries it along. -/
theorem gateIssueRecordsAndGoesOn : Obligations.GateIssueRecordsAndGoesOn := by
  intro i s t hi hmode hpolicy h
  obtain ⟨k, hexec, hk⟩ := exec_gated_modeBlind hi
  have hasleep : whileAsleep (start (s.withMode .awake)) = (start s).withGate true := by
    cases s
    cases hmode
    rfl
  have hgate : gateCheck (start s) = .ok () (whileAsleep (start (s.withMode .awake))) := by
    rw [hasleep]
    simp [gateCheck, hmode, hpolicy]
  rw [hexec] at h
  obtain rfl := Host.Outcome.next.inj h
  rw [hexec, hgate, andThen_ok, hk, conclude_mapState_whileAsleep]
  rfl

end Sys2Proof.Machine

namespace Sys2Proof.Machine

open Sys2Proof.Claims

/-! ### Issuing a command: `mode` and `scope_active`

What the host waits through before a command is performed, frame events of the environment, leaves the block's bits. -/

/-- The block has the same `mode` and `scope_active` in both states. -/
def SameModeBits (s u : State) : Prop := u.mode = s.mode ∧ u.scopeActive = s.scopeActive

/-- Issuing an instruction's command performs it, from a state with the block's bits as they were. -/
theorem issue_encode (i : Instr) (s : State) : ∃ u t, SameModeBits s u ∧ exec i u = .next t ∧
    issue (encode i) s = some (t, t.lastStatus) := by
  have hwf : (encode i).wellFormed = true := by cases i <;> rfl
  obtain ⟨_, _, -, ⟨j, t, hd, hexec, hissue⟩ | ⟨hd, -⟩⟩ := issue_cases hwf s
  · rw [decode_encode] at hd
    cases hd
    refine ⟨_, t, ?_, hexec, hissue⟩
    exact ⟨rfl, rfl⟩
  · rw [decode_encode] at hd
    cases hd

/-- Issuing any command the port can carry: an instruction's, or a refusal of a reserved code (R70, R78). -/
theorem issue_wellFormed {c : Command} (hc : c.wellFormed = true) (s : State) :
    (∃ i, c = encode i) ∨ ∃ t, SameModeBits s t ∧ issue c s = some (t, t.lastStatus) := by
  obtain ⟨_, _, -, ⟨i, -, hd, -, -⟩ | ⟨-, hissue⟩⟩ := issue_cases hc s
  · exact .inl ⟨i, (encode_of_decode hd).symm⟩
  · refine .inr ⟨_, ?_, hissue⟩
    exact ⟨rfl, rfl⟩

/-- An instruction other than SCOPE_ENTER opens no scope (R22). -/
theorem exec_scopeActive_false {i : Instr} {s t : State} (hi : i ≠ .scopeEnter) (hs : s.scopeActive = false)
    (h : exec i s = .next t) : t.scopeActive = false := by
  obtain ⟨-, hexit, hother⟩ := scopeBitFollowsEnterAndExit i s t h
  by_cases hx : i = .scopeExit
  · exact hexit hx
  · exact (hother hi hx).trans hs

/-- From an awake block an instruction other than SLEEP and SCOPE_EXIT leaves it awake (R150). -/
theorem exec_mode_awake {i : Instr} {s t : State} (hsleep : i ≠ .sleep) (hexit : i ≠ .scopeExit) (hs : s.mode = .awake)
    (h : exec i s = .next t) : t.mode = .awake := by
  obtain ⟨hwake, -, hother⟩ := modeFollowsTheTransitionTable i s t h
  by_cases hw : i = .wake ∨ i = .scopeEnter
  · rw [hwake hw, hs, ite_self]
  · obtain ⟨hw, he⟩ := not_or.1 hw
    exact (hother hw he hsleep hexit).trans hs

/-! ### Within a scope -/

/-- From `s` to `t` within a scope's body: `scope_active` is kept, and if `sleepless` an awake block stays awake. -/
structure InScope (sleepless : Prop) (s t : State) : Prop where
  scopeActive : t.scopeActive = s.scopeActive
  awake : sleepless → s.mode = .awake → t.mode = .awake

/-- The host has a status for what it issued in a scope's body from `s`. -/
def Runs (sleepless : Prop) (s : State) (r : Option (State × Status)) : Prop :=
  ∃ t st, r = some (t, st) ∧ InScope sleepless s t

/-- What the host issues next in a scope's body, only if what it issued ended OK (R148). -/
def thenIfOk (r : Option (State × Status)) (k : State → Option (State × Status)) : Option (State × Status) :=
  match r with
  | some (s, .ok) => k s
  | other => other

section runs
variable {p q : Prop} {s t : State} {r : Option (State × Status)} {k : State → Option (State × Status)}

theorem InScope.refl : InScope p s s := ⟨rfl, fun _ => id⟩

theorem InScope.mono (h : InScope p s t) (hpq : q → p) : InScope q s t := ⟨h.scopeActive, fun hq => h.awake (hpq hq)⟩

theorem InScope.trans {u : State} (h : InScope p s t) (h' : InScope p t u) : InScope p s u :=
  ⟨h'.scopeActive.trans h.scopeActive, fun hp hs => h'.awake hp (h.awake hp hs)⟩

theorem Runs.mono (h : Runs p s r) (hpq : q → p) : Runs q s r := by
  obtain ⟨t, st, hr, ht⟩ := h
  exact ⟨t, st, hr, ht.mono hpq⟩

theorem Runs.thenIfOk (h : Runs p s r) (hk : ∀ t, r = some (t, .ok) → Runs p t (k t)) : Runs p s (thenIfOk r k) := by
  obtain ⟨t, st, rfl, ht⟩ := h
  by_cases hst : st = .ok
  · subst hst
    obtain ⟨u, st', hu, htu⟩ := hk t rfl
    exact ⟨u, st', hu, ht.trans htu⟩
  · refine ⟨t, st, ?_, ht⟩
    cases st with
    | ok => exact absurd rfl hst
    | _ => rfl

end runs

/-- An instruction that a body may hold, issued from any state. -/
theorem issue_encode_runs {i : Instr} (henter : i ≠ .scopeEnter) (hexit : i ≠ .scopeExit) (s : State) :
    Runs (i ≠ .sleep) s (issue (encode i) s) := by
  obtain ⟨u, t, ⟨hmode, hscope⟩, hexec, hissue⟩ := issue_encode i s
  obtain ⟨-, -, hkeep⟩ := scopeBitFollowsEnterAndExit i u t hexec
  exact ⟨t, _, hissue, (hkeep henter hexit).trans hscope, fun hsleep hs =>
    exec_mode_awake hsleep hexit (hmode.trans hs) hexec⟩

/-- A command that a body may hold, issued from any state (R148). -/
theorem issue_runs {c : Command} (hc : c.wellFormed = true) (henter : c.op ≠ 0x23#8) (hexit : c.op ≠ 0x24#8) (s : State) :
    Runs (c.op ≠ 0x21#8) s (issue c s) := by
  rcases issue_wellFormed hc s with ⟨i, rfl⟩ | ⟨t, ⟨hmode, hscope⟩, hissue⟩
  · refine (issue_encode_runs ?_ ?_ s).mono fun hsleep => ?_
    · rintro rfl; exact henter rfl
    · rintro rfl; exact hexit rfl
    · rintro rfl; exact hsleep rfl
  · exact ⟨t, _, hissue, hscope, fun _ hs => hmode.trans hs⟩

theorem issueWrFrString_eq (str : String) (s : State) : issueWrFrString str s =
    thenIfOk (issue (encode (.parseFr str)) s) fun t => (parseFrameRate str).bind fun x => issue (encode (.wrFr x)) t := by
  unfold issueWrFrString thenIfOk
  cases parseFrameRate str <;> rfl

/-- A PARSE.FR that ends OK had a rate (R130, R213). -/
theorem parseFrameRate_of_ok {str : String} {s t : State} (h : issue (encode (.parseFr str)) s = some (t, .ok)) :
    ∃ x, parseFrameRate str = some x := by
  obtain ⟨u, t', -, hexec, hissue⟩ := issue_encode (.parseFr str) s
  cases hx : parseFrameRate str with
  | some x => exact ⟨x, rfl⟩
  | none =>
    rw [exec_parseFr_of_none hx] at hexec
    cases hexec
    rw [h] at hissue
    cases hissue

theorem issueWrFrString_runs (str : String) (s : State) : Runs True s (issueWrFrString str s) := by
  rw [issueWrFrString_eq]
  refine .thenIfOk ((issue_encode_runs (by simp) (by simp) s).mono fun _ => by simp) fun t ht => ?_
  obtain ⟨x, hx⟩ := parseFrameRate_of_ok ht
  rw [hx]
  exact (issue_encode_runs (by simp) (by simp) t).mono fun _ => by simp

/-- A well-formed body runs to a status. -/
theorem runBody_runs {body : HostProgram} (hb : body.bodyWellFormed = true) (s : State) :
    Runs (noSleep body) s (runBody body s) := by
  induction body generalizing s with
  | done => exact ⟨s, .ok, rfl, .refl⟩
  | command c rest ih =>
    simp only [HostProgram.bodyWellFormed, Bool.and_eq_true, bne_iff_ne] at hb
    obtain ⟨⟨⟨hc, henter⟩, hexit⟩, hrest⟩ := hb
    exact .thenIfOk ((issue_runs hc henter hexit s).mono And.left) fun t _ => (ih hrest t).mono And.right
  | wrFrString str rest ih =>
    exact .thenIfOk ((issueWrFrString_runs str s).mono fun _ => trivial) fun t _ => ih hb t
  | scope => cases hb

/-! ### A whole scope -/

/-- What runs after a SCOPE_ENTER that left `s1`: the body to `s2` and `stBody`, and SCOPE_EXIT, to `t`. -/
structure ScopeRun (body : HostProgram) (s1 s2 t : State) (stBody : Status) : Prop where
  run : runBody body s1 = some (s2, stBody)
  scopeOpen : s2.scopeActive = true
  awake : noSleep body → s2.mode = .awake
  exit : issue (encode .scopeExit) s2 = some (t, t.lastStatus)
  closed : t.scopeActive = false
  mode : t.mode = if t.lastStatus = .ok then .asleep else s2.mode

/-- After SCOPE_ENTER has opened the scope, the body runs and leaves it open, and SCOPE_EXIT closes it (R147, R148). -/
theorem scopeRun {body : HostProgram} (hb : body.bodyWellFormed = true) {s1 : State} (hopen : s1.scopeActive = true)
    (hawake : s1.mode = .awake) : ∃ s2 t stBody, ScopeRun body s1 s2 t stBody := by
  obtain ⟨s2, stBody, hrun, hscope, hmode⟩ := runBody_runs hb s1
  obtain ⟨u, t, ⟨hmode', -⟩, hexec, hissue⟩ := issue_encode .scopeExit s2
  exact ⟨s2, t, stBody, hrun, hscope.trans hopen, fun h => hmode h hawake, hissue, scopeExit_scopeActive hexec,
    hmode' ▸ scopeExit_mode hexec⟩

theorem runScope_of_scopeRun {body : HostProgram} {s s1 s2 t : State} {stBody : Status}
    (henter : issue (encode .scopeEnter) s = some (s1, .ok)) (h : ScopeRun body s1 s2 t stBody) :
    runScope body s = some (t, .scope stBody t.lastStatus) := by
  simp only [runScope, henter, h.run, h.exit]

theorem runScope_notEntered {body : HostProgram} {s s1 : State} {st : Status}
    (henter : issue (encode .scopeEnter) s = some (s1, st)) (hst : st ≠ .ok) :
    runScope body s = some (s1, .notEntered st) := by
  cases st with
  | ok => exact absurd rfl hst
  | _ => simp only [runScope, henter]

/-- SCOPE_ENTER, issued: when it ends OK the scope is open and the block awake, and when not no scope was opened (R146). -/
theorem issue_scopeEnter (s : State) : ∃ s1, issue (encode .scopeEnter) s = some (s1, s1.lastStatus) ∧
    (s1.lastStatus = .ok → s1.scopeActive = true ∧ s1.mode = .awake) ∧
    (s1.lastStatus ≠ .ok → s1.scopeActive = s.scopeActive) := by
  obtain ⟨u, s1, ⟨-, hscope⟩, hexec, hissue⟩ := issue_encode .scopeEnter s
  have hactive := scopeEnter_scopeActive hexec
  refine ⟨s1, hissue, fun hok => ⟨by simp [hactive, hok], ?_⟩, fun hne => by simp [hactive, hscope, hne]⟩
  exact (scopeEnter_mode hexec).trans (if_pos hok)

/-- A structured scope ends at a SCOPE_ENTER that is not OK, or enters, runs its body and exits (R148). -/
theorem runScope_cases {body : HostProgram} (hb : body.bodyWellFormed = true) (s : State) : ∃ s1,
    issue (encode .scopeEnter) s = some (s1, s1.lastStatus) ∧
    ((s1.lastStatus ≠ .ok ∧ s1.scopeActive = s.scopeActive ∧ runScope body s = some (s1, .notEntered s1.lastStatus)) ∨
    (s1.lastStatus = .ok ∧ ∃ s2 t stBody, ScopeRun body s1 s2 t stBody ∧
      runScope body s = some (t, .scope stBody t.lastStatus))) := by
  obtain ⟨s1, henter, hok, hne⟩ := issue_scopeEnter s
  refine ⟨s1, henter, ?_⟩
  by_cases hst : s1.lastStatus = .ok
  · obtain ⟨hopen, hawake⟩ := hok hst
    obtain ⟨s2, t, stBody, h⟩ := scopeRun hb hopen hawake
    exact .inr ⟨hst, s2, t, stBody, h, runScope_of_scopeRun (hst ▸ henter) h⟩
  · exact .inl ⟨hst, hne hst, runScope_notEntered henter hst⟩

/-- Settles O59: the exit closes the scope and sets `mode` when it is OK; a body without SLEEP has left the block awake. -/
theorem scopeAlwaysReleases : Obligations.ScopeAlwaysReleases := by
  intro body s t stBody stExit hb h
  obtain ⟨s1, -, ⟨-, -, hrun⟩ | ⟨-, s2, t', stBody', hscope, hrun⟩⟩ := runScope_cases hb s
  · rw [hrun] at h
    cases h
  · rw [hrun] at h
    cases h
    refine ⟨hscope.closed, fun hok => hscope.mode.trans (if_pos hok), fun hno => ?_⟩
    rw [hscope.mode, hscope.awake hno]
    simp

/-! ### A whole program -/

/-- The host has reports for a program's items, and no scope is open after them. -/
def EndsClosed (r : Option (State × List Report)) : Prop := ∃ t reports, r = some (t, reports) ∧ t.scopeActive = false

/-- One item that ran, and the reports of the items after it. -/
theorem EndsClosed.cons {r : Option (State × List Report)} (h : EndsClosed r) (rep : Report) :
    EndsClosed (r.map fun x => (x.1, rep :: x.2)) := by
  obtain ⟨t, reports, rfl, ht⟩ := h
  exact ⟨t, rep :: reports, rfl, ht⟩

/-- A command other than SCOPE_ENTER opens no scope. -/
theorem issue_scopeActive_false {c : Command} (hc : c.wellFormed = true) (henter : c.op ≠ 0x23#8) {s : State}
    (hs : s.scopeActive = false) : ∃ t, issue c s = some (t, t.lastStatus) ∧ t.scopeActive = false := by
  rcases issue_wellFormed hc s with ⟨i, rfl⟩ | ⟨t, ⟨-, hscope⟩, hissue⟩
  · obtain ⟨u, t, ⟨-, hscope⟩, hexec, hissue⟩ := issue_encode i s
    refine ⟨t, hissue, exec_scopeActive_false ?_ (hscope.trans hs) hexec⟩
    rintro rfl
    exact henter rfl
  · exact ⟨t, hissue, hscope.trans hs⟩

theorem runScope_scopeActive_false {body : HostProgram} (hb : body.bodyWellFormed = true) {s : State}
    (hs : s.scopeActive = false) : ∃ t rep, runScope body s = some (t, rep) ∧ t.scopeActive = false := by
  obtain ⟨s1, -, ⟨-, hkeep, hrun⟩ | ⟨-, _, t, _, hscope, hrun⟩⟩ := runScope_cases hb s
  · exact ⟨s1, _, hrun, hkeep.trans hs⟩
  · exact ⟨t, _, hrun, hscope.closed⟩

theorem runItems_endsClosed {p : HostProgram} (hp : p.wellFormed = true) {s : State} (hs : s.scopeActive = false) :
    EndsClosed (runItems p s) := by
  induction p generalizing s with
  | done => exact ⟨s, [], rfl, hs⟩
  | command c rest ih =>
    simp only [HostProgram.wellFormed, Bool.and_eq_true, bne_iff_ne] at hp
    obtain ⟨⟨hc, henter⟩, hrest⟩ := hp
    obtain ⟨t, hissue, ht⟩ := issue_scopeActive_false hc henter hs
    simp only [runItems, hissue]
    exact (ih hrest ht).cons _
  | wrFrString str rest ih =>
    obtain ⟨t, st, hrun, hscope, -⟩ := issueWrFrString_runs str s
    simp only [runItems, hrun]
    exact (ih hp (hscope.trans hs)).cons _
  | scope body rest _ ih =>
    simp only [HostProgram.wellFormed, Bool.and_eq_true] at hp
    obtain ⟨hbody, hrest⟩ := hp
    obtain ⟨t, rep, hrun, ht⟩ := runScope_scopeActive_false hbody hs
    simp only [runItems, hrun]
    exact (ih hrest ht).cons _

/-- Settles O58: a scope by its enter's status; a program item by item. -/
theorem scopeAlwaysRunsToItsExit : Obligations.ScopeAlwaysRunsToItsExit := by
  refine ⟨fun body s hb => ?_, fun p s hp hs => ?_⟩
  · obtain ⟨s1, henter, ⟨hst, -, hrun⟩ | ⟨hst, s2, t, stBody, hscope, hrun⟩⟩ := runScope_cases hb s
    · exact ⟨s1, _, henter, fun _ => hrun, fun hok => absurd hok hst⟩
    · exact ⟨s1, _, henter, fun hne => absurd hst hne, fun _ =>
        ⟨s2, t, stBody, _, hscope.run, hscope.scopeOpen, hscope.exit, hrun⟩⟩
  · rw [runProgram, if_pos hp]
    exact runItems_endsClosed hp hs

end Sys2Proof.Machine

namespace Sys2Proof.Machine

open Sys2Proof.Claims

/-! ### WR_ICFG with a NaN -/

/-- Settles O51: the encodings come before the gate and the transfers, so the first that raises ends the command in the state
it started from. -/
theorem wrIcfgRejectsNaNBeforeTheGate : Obligations.WrIcfgRejectsNaNBeforeTheGate := by
  intro cf s hnan
  by_cases hu : cf.upper = .nan
  · rw [if_pos hu]
    exact exec_raises (e := .range .pixel (some .upper))
      (by simp only [exec, execWrIcfg, perform_eq, hu, encodeOrRaise_nan, andThen_stop]) rfl
  obtain ⟨bu, eu⟩ := encodeOrRaise_of_ne_nan .pixel hu
  rw [if_neg hu]
  by_cases hl : cf.lower = .nan
  · rw [if_pos hl]
    exact exec_raises (e := .range .pixel (some .lower))
      (by simp only [exec, execWrIcfg, perform_eq, eu, andThen_ok, hl, encodeOrRaise_nan, andThen_stop]) rfl
  obtain ⟨bl, el⟩ := encodeOrRaise_of_ne_nan .pixel hl
  rw [if_neg hl]
  have hh : cf.hysteresis = .nan := by_contra fun hh => hnan ⟨hu, hl, hh⟩
  exact exec_raises (e := .range .hyst (some .hysteresis))
    (by simp only [exec, execWrIcfg, perform_eq, eu, el, andThen_ok, hh, encodeOrRaise_nan, andThen_stop]) rfl

end Sys2Proof.Machine

namespace Sys2Proof.Machine

open Sys2Proof.Claims

/-! ### A refusal changes the mark and the answer alone -/

theorem raise_refusal {e : Stop} (he : e.isRefusal = true) (s : State) :
    raise e (start s) = (answers s (endReply e.status e.info)).withRefused true := by
  rw [raise, he, Bool.or_true]
  rfl

/-- A command whose body is refused at once (R24, R214 to R216). -/
theorem exec_refuses {i : Instr} {s : State} {e : Stop} (hexec : exec i s = .next (conclude (.stop e (start s))))
    (he : e.isRefusal = true) : exec i s = .next ((answers s (endReply e.status e.info)).withRefused true) := by
  rw [hexec, conclude_stop, raise_refusal he]

/-- Settles O41: the gate is the command's first step, and it refuses. -/
theorem gateRefuseIssuesNothing : Obligations.GateRefuseIssuesNothing := by
  intro i s hi hmode hpolicy
  obtain ⟨k, hexec, -⟩ := exec_gated hi
  have hgate : gateCheck (start s) = .stop .gate (start s) := by simp [gateCheck, hmode, hpolicy]
  exact exec_refuses (e := .gate) (by rw [hexec, hgate, andThen_stop]) rfl

/-- Settles O38. -/
theorem unmatchedScopeCommandsAreRefused : Obligations.UnmatchedScopeCommandsAreRefused := by
  refine fun s => ⟨fun h => exec_refuses (e := .nested) ?_ rfl, fun h => exec_refuses (e := .noScope) ?_ rfl⟩
  · simp [exec, execScopeEnter, perform_eq, h]
  · simp [exec, execScopeExit, perform_eq, h]

/-- The block's step of a command with a reserved code refuses it (R78, R214). -/
theorem blockStep_reserved {s : State} {c : Command} {rest : List Command} {op : Byte} (hp : s.port = c :: rest)
    (hd : decode c = .error (.reservedCode op)) : blockStep s = .next (illegalCommand (s.withPort rest)) := by
  simp only [blockStep, hp, hd]

/-- Settles O5: at the block's turn the port's command is taken and refused. -/
theorem reservedCodeIsRefusedWithoutTransfer : Obligations.ReservedCodeIsRefusedWithoutTransfer := by
  intro s c rest hp hd hm
  rw [step_block hp hm, blockStep_reserved (s := s.withTurns s.turns.tail) hp hd, illegalCommand, raise_refusal rfl]
  rfl

/-! ### `WR_FR "s"` with a string that is no rate -/

theorem parseFrameRate_eq_none {str : String} (hlow : str ≠ "low") (hhigh : str ≠ "high") :
    parseFrameRate str = none := by
  rw [parseFrameRate, if_neg hlow, if_neg hhigh]

/-- Settles O60: PARSE.FR is issued and raises, so WR_FR is not. -/
theorem badRateStringIssuesNoWrite : Obligations.BadRateStringIssuesNoWrite := by
  intro str s hlow hhigh
  obtain ⟨mem, turns, hmem, ⟨i, t, hd, hexec, hissue⟩ | ⟨hd, -⟩⟩ := issue_cases (c := encode (.parseFr str)) rfl s
  · rw [decode_encode] at hd
    cases hd
    rw [exec_parseFr_of_none (parseFrameRate_eq_none hlow hhigh)] at hexec
    cases hexec
    refine ⟨mem, turns, ?_, hmem⟩
    rw [issueWrFrString_eq, hissue]
    rfl
  · rw [decode_encode] at hd
    cases hd

end Sys2Proof.Machine

namespace Sys2Proof.Machine

open Sys2Proof.Claims

/-! ### The steps a command's body is made of

Said once, over every instruction. What holds of each kind of step, and is carried from step to step, holds of every command:
which of its calls failed, and that it looks neither at the sticky bits nor at the last answer. -/

/-- `s` with the refusal mark set if `m`, the fault bit set if `g`, and the last answer `r`. -/
def marked (m g : Bool) (r : Option Reply) (s : State) : State :=
  ((s.withRefused (m || s.refused)).withGate (g || s.gateViolation)).withReply r

@[simp] theorem marked_env (m g : Bool) (r : Option Reply) (s : State) : (marked m g r s).env = s.env := rfl

/-- What is computed from the state depends neither on the sticky bits nor on the last answer. -/
def IgnoresMarks {β : Type} (f : State → β) : Prop := ∀ m g r s, f (marked m g r s) = f s

/-- What a command with code `op` does, from one of its steps to the end. -/
inductive Body (op : Byte) : {α : Type} → (State → Res α) → Prop
  | done {α : Type} (a : α) : Body op (.ok a)
  | stop {α : Type} {e : Stop} (he : e.status ≠ .transferError := by nofun) : Body op (.stop e : State → Res α)
  | read {n : Nat} (a : RegBase n) : Body op (memRead op a)
  | write {n : Nat} (a : RegBase n) (v : Vector Byte n) : Body op (memWrite op a v)
  | gate : Body op gateCheck
  | mode (x : Mode) : Body op fun s => .ok () (s.withMode x)
  | scope (x : Bool) : Body op fun s => .ok () (s.withScope x)
  | look {α β : Type} {f : State → β} {k : β → State → Res α} (hf : IgnoresMarks f) (hk : ∀ b, Body op (k b)) :
      Body op fun s => k (f s) s
  | andThen {α β : Type} {k : State → Res α} {l : α → State → Res β} (hk : Body op k) (hl : ∀ a, Body op (l a)) :
      Body op fun s => (k s).andThen l

section body
variable {op : Byte} {α : Type}

theorem Body.nothing {k : State → Res Unit} (hk : Body op k) : Body op fun s => nothing (k s) :=
  hk.andThen fun _ => .done _

theorem Body.ok {v : State → α} (hv : IgnoresMarks v := by intro _ _ _ _; rfl) : Body op fun s => .ok (v s) s :=
  .look hv .done

theorem Body.readAt {n : Nat} {a : State → RegBase n} (ha : IgnoresMarks a := by intro _ _ _ _; rfl) :
    Body op fun s => memRead op (a s) s :=
  .look ha .read

theorem Body.writeAt {n : Nat} {a : State → RegBase n} {v : State → Vector Byte n}
    (ha : IgnoresMarks a := by intro _ _ _ _; rfl) (hv : IgnoresMarks v := by intro _ _ _ _; rfl) :
    Body op fun s => memWrite op (a s) (v s) s :=
  .look (k := fun a s => memWrite op a (v s) s) ha fun a => .look hv (.write a)

theorem Body.rmwAt {a : State → RegBase 1} {p : State → Fin 8} {x : State → Bool}
    (h : IgnoresMarks fun s => (a s, p s, x s) := by intro _ _ _ _; rfl) :
    Body op fun s => rmw op (a s) (p s) (x s) s :=
  .look (k := fun y s => rmw op y.1 y.2.1 y.2.2 s) h fun y => .andThen (.read y.1) fun _ => .write y.1 _

theorem Body.setPower (x : Mode) : Body op (setPower op x) :=
  .andThen .writeAt fun _ => .mode x

theorem Body.encodeOrRaise (t : TempIn) (p : Profile) (f : Option LimitField) : Body op (encodeOrRaise t p f) := by
  unfold Machine.encodeOrRaise
  cases encodeTemperature t p with
  | some b => exact .done b
  | none => exact .stop

theorem Body.ifScope {k l : State → Res α} (hk : Body op k) (hl : Body op l) :
    Body op fun s => if s.scopeActive then k s else l s :=
  .look (k := fun (b : Bool) s => if b then k s else l s) (fun _ _ _ _ => rfl) fun b => by
    cases b with
    | true => exact hk
    | false => exact hl

end body

/-- Every command's body, step by step; the steps that issue a transfer name the command's own code. -/
theorem exec_body (i : Instr) : ∃ k, (∀ s, exec i s = perform k s) ∧ Body (encode i).op k := by
  cases i <;> refine ⟨_, fun _ => by rw [exec]; exact rfl, ?_⟩
  case wake | sleep => exact .nothing (.setPower _)
  case scopeEnter => exact .ifScope .stop (.nothing (.andThen (.setPower _) fun _ => .scope true))
  case scopeExit =>
    exact .ifScope (.andThen (l := fun _ s => nothing (setPower 0x24 .asleep s)) (.scope false) fun _ =>
      .nothing (.setPower _)) .stop
  case image | devtemp => exact .andThen .gate fun _ => .andThen .readAt fun _ => .ok
  case rdFr | rdMa | rdPxint | rdOvf => exact .andThen .readAt fun _ => .ok
  case rdInt => exact .andThen .readAt fun _ => .andThen .readAt fun _ => .ok
  case rdIcfg =>
    exact .andThen .readAt fun _ => .andThen .readAt fun _ => .andThen .readAt fun _ => .andThen .readAt fun _ => .ok
  case wrFr | wrMa => exact .nothing .rmwAt
  case disInt => exact .andThen .gate fun _ => .nothing .rmwAt
  case wrIcfg =>
    exact .andThen (.encodeOrRaise _ _ _) fun _ => .andThen (.encodeOrRaise _ _ _) fun _ =>
      .andThen (.encodeOrRaise _ _ _) fun _ => .andThen .gate fun _ => .andThen .readAt fun _ => .andThen .writeAt fun _ =>
      .andThen .writeAt fun _ => .andThen .writeAt fun _ => .nothing .writeAt
  case rstInt | rstOvf | rstFlags => exact .nothing .writeAt
  case enctPix | enctDev | enctHys => exact .andThen (.encodeOrRaise _ _ _) fun _ => .ok
  case parseFr str =>
    cases parseFrameRate str with
    | some x => exact .ok
    | none => exact .stop
  all_goals exact .ok

end Sys2Proof.Machine

namespace Sys2Proof.Machine

open Sys2Proof.Claims

/-! ### Which call of a command failed -/

def NoneFailed (s : State) : Prop := ∀ c ∈ s.bus, c.error = none

/-- How a command with code `op` ended: with a call that failed, its last, which the ending records beside the code; or with
another ending and no failed call (R211). -/
inductive EndedWith (op : Byte) : State → Stop → Prop
  | failed {s : State} {c : BusCall} {x : BusError} (hs : NoneFailed s) (hc : c.error = some x) :
      EndedWith op (record c s) (.transfer op c.addr c.dir x)
  | other {s : State} {e : Stop} (hs : NoneFailed s) (he : e.status ≠ .transferError) : EndedWith op s e

section calls
variable {op : Byte} {s : State} {e : Stop}

theorem noneFailed_start (s : State) : NoneFailed (start s) := nofun

theorem NoneFailed.record (hs : NoneFailed s) {c : BusCall} (hc : c.error = none) : NoneFailed (record c s) :=
  List.forall_mem_append.2 ⟨hs, List.forall_mem_singleton.2 hc⟩

theorem NoneFailed.sensorTakes (hs : NoneFailed s) {f : Bool} {ans : BusAnswer} {a : Nat} {cells : List Host.Cell} :
    NoneFailed (sensorTakes f ans a cells s) := by
  rwa [NoneFailed, sensorTakes_bus]

theorem NoneFailed.beforeTransfer (hs : NoneFailed s) : NoneFailed (beforeTransfer s) := hs

/-- From a place where no call has failed, the steps of a body go on without a failed call, or end with what failed. -/
theorem Body.calls {α : Type} {k : State → Res α} (hk : Body op k) :
    ∀ s, NoneFailed s → (k s).Holds (fun _ => NoneFailed) (fun e t => EndedWith op t e) := by
  induction hk with
  | done | mode | scope => exact fun _ hs => hs
  | stop he => exact fun _ hs => .other hs he
  | read =>
    exact fun _ hs => memRead_holds (fun _ _ _ => hs.beforeTransfer.record rfl) (fun _ _ => .failed hs.beforeTransfer rfl)
  | write =>
    exact fun _ hs => memWrite_holds (fun _ => hs.beforeTransfer.sensorTakes.record rfl)
      (fun _ _ => .failed hs.beforeTransfer.sensorTakes rfl)
  | gate => exact fun _ hs => gateCheck_holds (fun _ => hs) (fun _ _ => hs) (fun _ _ => .other hs nofun)
  | look _ _ ih => exact fun s => ih _ s
  | @andThen _ _ k _ _ _ ihk ihl =>
    intro s hs
    have h := ihk s hs
    dsimp only
    cases hr : k s with
    | ok a t => exact ihl a t (by rwa [hr] at h)
    | stop e t => rwa [hr] at h

/-- The answer to a TRANSFER_ERROR (R211). -/
theorem EndedWith.reply (h : EndedWith op s e) (hst : e.status = .transferError) : ∃ done c x, s.bus = done ++ [c] ∧
    c.error = some x ∧ (∀ d ∈ done, d.error = none) ∧
    (raise e s).reply = endReply .transferError (.transfer op c.addr c.dir x) := by
  cases h with
  | failed hs hc => exact ⟨_, _, _, rfl, hc, hs, rfl⟩
  | other _ he => exact absurd hst he

theorem EndedWith.noneFailed (h : EndedWith op s e) (hst : e.status ≠ .transferError) : NoneFailed s := by
  cases h with
  | failed => exact absurd rfl hst
  | other hs => exact hs

end calls

/-- Settles O16: no call of a body that came to its end failed; one that ended before it did ends with what failed. -/
theorem transferErrorRecordsTheFailingCall : Obligations.TransferErrorRecordsTheFailingCall := by
  intro i s t h
  obtain ⟨k, hexec, hk⟩ := exec_body i
  obtain rfl := Host.Outcome.next.inj ((hexec s).symm.trans h)
  have hcalls := hk.calls (start s) (noneFailed_start s)
  cases hr : k (start s) with
  | ok v u =>
    rw [hr] at hcalls
    exact ⟨nofun, fun _ => hcalls⟩
  | stop e u =>
    rw [hr] at hcalls
    exact ⟨hcalls.reply, hcalls.noneFailed⟩

/-! ### The sticky bits and the last answer -/

section marks
variable {α : Type} {m g : Bool} {r : Option Reply} {s : State}

theorem sensorTakes_marked {f : Bool} {ans : BusAnswer} {x : Nat} {cells : List Host.Cell} :
    sensorTakes f ans x cells (marked m g r s) = marked m g r (sensorTakes f ans x cells s) := by
  simp only [sensorTakes, apply_ite (marked m g r)]
  rfl

theorem memRead_marked {n : Nat} {op : Byte} {a : RegBase n} :
    memRead op a (marked m g r s) = (memRead op a s).mapState (marked m g r) := by
  simp only [memRead, marked_env]
  split <;> rfl

theorem memWrite_marked {n : Nat} {op : Byte} {a : RegBase n} {v : Vector Byte n} :
    memWrite op a v (marked m g r s) = (memWrite op a v s).mapState (marked m g r) := by
  have hbefore : beforeTransfer (marked m g r s) = marked m g r (beforeTransfer s) := rfl
  simp only [memWrite, marked_env, hbefore, sensorTakes_marked]
  split <;> rfl

/-- The gate sets the fault bit whether or not it was set (R23, R141). -/
theorem gateCheck_marked : gateCheck (marked m g r s) = (gateCheck s).mapState (marked m g r) := by
  have hmode : (marked m g r s).mode = s.mode := rfl
  have hpolicy : (marked m g r s).cfg.policy = s.cfg.policy := rfl
  unfold gateCheck
  rw [hmode, hpolicy]
  split
  · rfl
  split
  · rfl
  · cases g <;> rfl

/-- A body's steps carry the marks and the last answer along. -/
theorem Body.commutes_marked {op : Byte} {k : State → Res α} (hk : Body op k) :
    ∀ s, k (marked m g r s) = (k s).mapState (marked m g r) := by
  induction hk with
  | done | stop | mode | scope => exact fun _ => rfl
  | read => exact fun _ => memRead_marked
  | write => exact fun _ => memWrite_marked
  | gate => exact fun _ => gateCheck_marked
  | look hf _ ih =>
    intro s
    dsimp only
    rw [hf]
    exact ih _ s
  | @andThen _ _ k _ _ _ ihk ihl =>
    intro s
    dsimp only
    rw [ihk s]
    cases k s with
    | ok a t => exact ihl a t
    | stop e t => rfl

/-- The answer replaces the last one, and a refusal sets the mark whether or not it was set (R24). -/
theorem conclude_marked (x : Res Value) :
    conclude (x.mapState (marked m g r)) = marked m g (conclude x).reply (conclude x) := by
  cases x with
  | ok v t => rfl
  | stop e t => cases m <;> rfl

/-- A command does the same with the marks set as without, whatever the last answer and the last calls, and leaves them set
(R217, R222). -/
theorem exec_marked {i : Instr} {t : State} (h : exec i s = .next t) (b : List BusCall) :
    exec i (marked m g r (s.withBus b)) = .next (marked m g t.reply t) := by
  obtain ⟨k, hexec, hk⟩ := exec_body i
  obtain rfl := Host.Outcome.next.inj ((hexec s).symm.trans h)
  rw [hexec, ← conclude_marked, ← hk.commutes_marked]
  rfl

end marks

/-- Settles O18. -/
theorem stickyBitsAndLastAnswerDoNotMatter : Obligations.StickyBitsAndLastAnswerDoNotMatter :=
  fun _ _ _ r b h => ⟨exec_marked (m := true) (g := false) (r := r) h b, exec_marked (m := false) (g := true) (r := r) h b⟩

end Sys2Proof.Machine
